-- ==== Sys2Proof/Word.lean ====
section
/-! DEFINITION. The bit-vector types of the block: stream bytes, 32-bit words, and the three selector
encodings of spec/30_encoding.md rule R73. -/

namespace Sys2Proof

/-- A byte of the input stream, or one colour channel (R8, R12: u8). -/
abbrev Byte := BitVec 8

/-- A CSR, a palette entry or the data of a beat (R8, R12: u32). -/
abbrev Word := BitVec 32

/-- A byte address of the CSR space (R8, R50: 12 bits). -/
abbrev CsrAddr := BitVec 12

/-- The format code held in STATUS.FMT[10:8] and STEPSEL[3:1] (R76). -/
abbrev FmtCode := BitVec 3

/-- The format selector, COMPRESSION above BPP (R74). -/
abbrev Fmtsel := BitVec 48

/-- The step selector, FULL, FSM, FMT, NIBPH from the top (R78). -/
abbrev Stepsel := BitVec 7

/-- A HOST bus transaction, WE, ADDR, DATA from the top (R80). -/
abbrev Busx := BitVec 45

end Sys2Proof
end

