-- ==== Sys2Proof/Syntax.lean ====
section
/-! DEFINITION. The instruction set: one constructor per row of spec/opcode_table.json, in the table's order, and the
three encoding spaces its words live in (spec/30_encoding.md rule R73). -/

namespace Sys2Proof

/-- A word to be decoded, with the encoding space it belongs to (R73). -/
inductive Selector where
  /-- A format selector, decoded by the START check (R74). -/
  | fmtsel (w : Fmtsel)
  /-- A step selector, decoded when UNPACKER moves (R78). -/
  | stepsel (w : Stepsel)
  /-- A bus transaction, decoded when HOST moves (R80). -/
  | busx (w : Busx)
deriving DecidableEq, Repr

/-- One constructor per row of spec/opcode_table.json. A row's operands are the bits of its word that its match does not
fix; bits "not compared" (R79, and DATA of a read, R80) are kept as operands although no meaning reads them, so that
decoding drops no bit (log entry 21). -/
inductive Instr where
  /-- FMTSEL (0, 4): the START check on a 4-bit indexed image (R96, R99). -/
  | fmtIdx4
  /-- FMTSEL (0, 8): the START check on an 8-bit indexed image. -/
  | fmtIdx8
  /-- FMTSEL (0, 24): the START check on a 24-bit image. -/
  | fmtRgb24
  /-- FMTSEL (0, 32): the START check on a plain 32-bit image. -/
  | fmtRgb32
  /-- FMTSEL (3, 32): the START check on a 32-bit bitfield image. -/
  | fmtBf32
  /-- Any other FMTSEL: NotSupported (R100). -/
  | fmtNone (compression : Word) (bpp : BitVec 16)
  /-- STEPSEL in IDLE: no UNPACKER step is enabled (R79). -/
  | idle (full : Bool) (fmt : FmtCode) (nibph : Bool)
  /-- Take one pixel byte (R111). -/
  | inByte (fmt : FmtCode) (nibph : Bool)
  /-- Emit the high-nibble pixel of an IDX4 byte (R114). -/
  | emitIdx4Hi
  /-- Emit the low-nibble pixel of an IDX4 byte (R115). -/
  | emitIdx4Lo
  /-- Emit an 8-bit indexed pixel (R116). -/
  | emitIdx8
  /-- Emit a 24-bit pixel (R117). -/
  | emitRgb24
  /-- Emit a plain 32-bit pixel (R118). -/
  | emitRgb32
  /-- Emit a bitfield pixel (R121). -/
  | emitBf32
  /-- Discard one padding byte (R131). -/
  | padSkip (full : Bool) (fmt : FmtCode) (nibph : Bool)
  /-- Bus read (R145). -/
  | rd (addr : CsrAddr) (data : Word)
  /-- CTRL write with DATA[1] = 1: soft reset (R157). -/
  | wrCtrlSrst (data : Word)
  /-- CTRL write with DATA[1:0] = 01: START (R95, R147). -/
  | wrCtrlStart (data : Word)
  /-- CTRL write with DATA[1:0] = 00 (R147). -/
  | wrCtrl (data : Word)
  /-- STATUS write, write-one-to-clear (R150). -/
  | wrStatus (data : Word)
  /-- Configuration register writes (R149). -/
  | wrBpp (data : Word)
  | wrCompression (data : Word)
  | wrWidth (data : Word)
  | wrHeight (data : Word)
  | wrMaskR (data : Word)
  | wrMaskG (data : Word)
  | wrMaskB (data : Word)
  | wrMaskA (data : Word)
  | wrSrcAvail (data : Word)
  /-- Palette entry write; the entry is ADDR[9:2] (R151). -/
  | wrPal (entry : Byte) (data : Word)
  /-- Writes to the read-only registers ROW, COL and ID (R154). -/
  | wrRoRow (data : Word)
  | wrRoCol (data : Word)
  | wrRoId (data : Word)
  /-- Write to any other address, the misaligned ones included (R152, R153). -/
  | wrUnmapped (addr : CsrAddr) (data : Word)
deriving DecidableEq, Repr

end Sys2Proof
end

