-- ==== Sys2Proof/Decode.lean ====
section
/-! DEFINITION. The decoders of the three encoding spaces (spec/30_encoding.md rules R75, R79, R81), each total and with
its first matching row winning, then the encoder written from the same tables, and the reading of a word as
spec/opcode_table.json numbers it. -/

namespace Sys2Proof

/-! ### Format codes (R76) -/

abbrev Fmt.none : FmtCode := 0#3
abbrev Fmt.idx4 : FmtCode := 1#3
abbrev Fmt.idx8 : FmtCode := 2#3
abbrev Fmt.rgb24 : FmtCode := 3#3
abbrev Fmt.rgb32 : FmtCode := 4#3
abbrev Fmt.bf32 : FmtCode := 5#3

/-! ### Run-phase codes (R34) -/

abbrev FsmCode.idle : BitVec 2 := 0b00#2
abbrev FsmCode.pix : BitVec 2 := 0b01#2
abbrev FsmCode.pad : BitVec 2 := 0b10#2

/-! ### FMTSEL -/

/-- The format selector {COMPRESSION, BPP} (R74). -/
def fmtselOf (compression : Word) (bpp : BitVec 16) : Fmtsel := compression ++ bpp

/-- The dispatch function of R96. -/
def fmtOf (compression : Word) (bpp : BitVec 16) : FmtCode :=
  if compression = 0 ∧ bpp = 4 then Fmt.idx4
  else if compression = 0 ∧ bpp = 8 then Fmt.idx8
  else if compression = 0 ∧ bpp = 24 then Fmt.rgb24
  else if compression = 0 ∧ bpp = 32 then Fmt.rgb32
  else if compression = 3 ∧ bpp = 32 then Fmt.bf32
  else Fmt.none

/-- FMTSEL decode, exact on all 48 bits (R75). -/
def decodeFmtsel (w : Fmtsel) : Instr :=
  if w = 0x000000000004#48 then .fmtIdx4
  else if w = 0x000000000008#48 then .fmtIdx8
  else if w = 0x000000000018#48 then .fmtRgb24
  else if w = 0x000000000020#48 then .fmtRgb32
  else if w = 0x000000030020#48 then .fmtBf32
  else .fmtNone (w.extractLsb' 16 32) (w.extractLsb' 0 16)

/-! ### STEPSEL -/

/-- Why a selector decodes to no instruction. -/
inductive DecodeError where
  /-- R79: "unreachable step selector"; raised by every STEPSEL value that no row matches. -/
  | unreachableStepSelector
deriving DecidableEq, Repr

/-- The step selector {FULL, FSM, FMT, NIBPH} (R78). -/
def stepselOf (full : Bool) (fsm : BitVec 2) (fmt : FmtCode) (nibph : Bool) : Stepsel :=
  BitVec.ofBool full ++ fsm ++ fmt ++ BitVec.ofBool nibph

/-- STEPSEL decode, rows in the order of R79. -/
def decodeStepsel (w : Stepsel) : Except DecodeError Instr :=
  let full := w.getLsbD 6
  let fsm := w.extractLsb' 4 2
  let fmt := w.extractLsb' 1 3
  let nibph := w.getLsbD 0
  if fsm = FsmCode.idle then .ok (.idle full fmt nibph)
  else if fsm = FsmCode.pix ∧ full = false then .ok (.inByte fmt nibph)
  else if w = 0b1010010#7 then .ok .emitIdx4Hi
  else if w = 0b1010011#7 then .ok .emitIdx4Lo
  else if w = 0b1010100#7 then .ok .emitIdx8
  else if w = 0b1010110#7 then .ok .emitRgb24
  else if w = 0b1011000#7 then .ok .emitRgb32
  else if w = 0b1011010#7 then .ok .emitBf32
  else if fsm = FsmCode.pad then .ok (.padSkip full fmt nibph)
  else .error .unreachableStepSelector

/-! ### BUSX -/

/-- The bus transaction {WE, ADDR, DATA} (R80). -/
def busxOf (we : Bool) (addr : CsrAddr) (data : Word) : Busx := BitVec.ofBool we ++ addr ++ data

def busxWe (w : Busx) : Bool := w.getLsbD 44
def busxAddr (w : Busx) : CsrAddr := w.extractLsb' 32 12
def busxData (w : Busx) : Word := w.extractLsb' 0 32

/-- The address lies in the palette window and is word-aligned (R81: ADDR[11:10] = 01, ADDR[1:0] = 00). -/
def isPaletteAddr (a : CsrAddr) : Bool :=
  a.extractLsb' 10 2 == 0b01#2 && a.extractLsb' 0 2 == 0b00#2

/-- The palette entry a window address reaches, ADDR[9:2] (R51). -/
def paletteEntry (a : CsrAddr) : Byte := a.extractLsb' 2 8

/-- The window address of a palette entry, 0x400 + 4·i (R51). -/
def paletteAddr (entry : Byte) : CsrAddr := 0b01#2 ++ entry ++ 0b00#2

/-- BUSX decode of a write, rows in the order of R81. -/
def decodeWrite (a : CsrAddr) (d : Word) : Instr :=
  if a = 0x000 then
    if d.getLsbD 1 then .wrCtrlSrst d
    else if d.getLsbD 0 then .wrCtrlStart d
    else .wrCtrl d
  else if a = 0x004 then .wrStatus d
  else if a = 0x008 then .wrBpp d
  else if a = 0x00C then .wrCompression d
  else if a = 0x010 then .wrWidth d
  else if a = 0x014 then .wrHeight d
  else if a = 0x018 then .wrMaskR d
  else if a = 0x01C then .wrMaskG d
  else if a = 0x020 then .wrMaskB d
  else if a = 0x024 then .wrMaskA d
  else if a = 0x028 then .wrSrcAvail d
  else if isPaletteAddr a then .wrPal (paletteEntry a) d
  else if a = 0x02C then .wrRoRow d
  else if a = 0x030 then .wrRoCol d
  else if a = 0x03C then .wrRoId d
  else .wrUnmapped a d

/-- BUSX decode (R81). -/
def decodeBusx (w : Busx) : Instr :=
  if busxWe w then decodeWrite (busxAddr w) (busxData w) else .rd (busxAddr w) (busxData w)

/-! ### All three spaces -/

/-- The instruction a selector stands for, or the reason it stands for none. -/
def decode : Selector → Except DecodeError Instr
  | .fmtsel w => .ok (decodeFmtsel w)
  | .stepsel w => decodeStepsel w
  | .busx w => .ok (decodeBusx w)

/-- The word of an instruction, from the tables of R75, R79 and R81. -/
def encode : Instr → Selector
  | .fmtIdx4 => .fmtsel (fmtselOf 0 4)
  | .fmtIdx8 => .fmtsel (fmtselOf 0 8)
  | .fmtRgb24 => .fmtsel (fmtselOf 0 24)
  | .fmtRgb32 => .fmtsel (fmtselOf 0 32)
  | .fmtBf32 => .fmtsel (fmtselOf 3 32)
  | .fmtNone compression bpp => .fmtsel (fmtselOf compression bpp)
  | .idle full fmt nibph => .stepsel (stepselOf full FsmCode.idle fmt nibph)
  | .inByte fmt nibph => .stepsel (stepselOf false FsmCode.pix fmt nibph)
  | .emitIdx4Hi => .stepsel (stepselOf true FsmCode.pix Fmt.idx4 false)
  | .emitIdx4Lo => .stepsel (stepselOf true FsmCode.pix Fmt.idx4 true)
  | .emitIdx8 => .stepsel (stepselOf true FsmCode.pix Fmt.idx8 false)
  | .emitRgb24 => .stepsel (stepselOf true FsmCode.pix Fmt.rgb24 false)
  | .emitRgb32 => .stepsel (stepselOf true FsmCode.pix Fmt.rgb32 false)
  | .emitBf32 => .stepsel (stepselOf true FsmCode.pix Fmt.bf32 false)
  | .padSkip full fmt nibph => .stepsel (stepselOf full FsmCode.pad fmt nibph)
  | .rd addr data => .busx (busxOf false addr data)
  | .wrCtrlSrst data => .busx (busxOf true 0x000 data)
  | .wrCtrlStart data => .busx (busxOf true 0x000 data)
  | .wrCtrl data => .busx (busxOf true 0x000 data)
  | .wrStatus data => .busx (busxOf true 0x004 data)
  | .wrBpp data => .busx (busxOf true 0x008 data)
  | .wrCompression data => .busx (busxOf true 0x00C data)
  | .wrWidth data => .busx (busxOf true 0x010 data)
  | .wrHeight data => .busx (busxOf true 0x014 data)
  | .wrMaskR data => .busx (busxOf true 0x018 data)
  | .wrMaskG data => .busx (busxOf true 0x01C data)
  | .wrMaskB data => .busx (busxOf true 0x020 data)
  | .wrMaskA data => .busx (busxOf true 0x024 data)
  | .wrSrcAvail data => .busx (busxOf true 0x028 data)
  | .wrPal entry data => .busx (busxOf true (paletteAddr entry) data)
  | .wrRoRow data => .busx (busxOf true 0x02C data)
  | .wrRoCol data => .busx (busxOf true 0x030 data)
  | .wrRoId data => .busx (busxOf true 0x03C data)
  | .wrUnmapped addr data => .busx (busxOf true addr data)

/-! ### Words as spec/opcode_table.json numbers them -/

/-- The value of a selector as one number. -/
def Selector.toNat : Selector → Nat
  | .fmtsel w => BitVec.toNat w
  | .stepsel w => BitVec.toNat w
  | .busx w => BitVec.toNat w

/-- Match and mask of an instruction's row of spec/opcode_table.json, transcribed from its hex and binary digits. -/
def tableRow : Instr → Nat × Nat
  | .fmtIdx4 => (0x000000000004, 0xFFFFFFFFFFFF)
  | .fmtIdx8 => (0x000000000008, 0xFFFFFFFFFFFF)
  | .fmtRgb24 => (0x000000000018, 0xFFFFFFFFFFFF)
  | .fmtRgb32 => (0x000000000020, 0xFFFFFFFFFFFF)
  | .fmtBf32 => (0x000000030020, 0xFFFFFFFFFFFF)
  | .fmtNone _ _ => (0x000000000000, 0x000000000000)
  | .idle _ _ _ => (0b0000000, 0b0110000)
  | .inByte _ _ => (0b0010000, 0b1110000)
  | .emitIdx4Hi => (0b1010010, 0b1111111)
  | .emitIdx4Lo => (0b1010011, 0b1111111)
  | .emitIdx8 => (0b1010100, 0b1111111)
  | .emitRgb24 => (0b1010110, 0b1111111)
  | .emitRgb32 => (0b1011000, 0b1111111)
  | .emitBf32 => (0b1011010, 0b1111111)
  | .padSkip _ _ _ => (0b0100000, 0b0110000)
  | .rd _ _ => (0x000000000000, 0x100000000000)
  | .wrCtrlSrst _ => (0x100000000002, 0x1FFF00000002)
  | .wrCtrlStart _ => (0x100000000001, 0x1FFF00000003)
  | .wrCtrl _ => (0x100000000000, 0x1FFF00000003)
  | .wrStatus _ => (0x100400000000, 0x1FFF00000000)
  | .wrBpp _ => (0x100800000000, 0x1FFF00000000)
  | .wrCompression _ => (0x100C00000000, 0x1FFF00000000)
  | .wrWidth _ => (0x101000000000, 0x1FFF00000000)
  | .wrHeight _ => (0x101400000000, 0x1FFF00000000)
  | .wrMaskR _ => (0x101800000000, 0x1FFF00000000)
  | .wrMaskG _ => (0x101C00000000, 0x1FFF00000000)
  | .wrMaskB _ => (0x102000000000, 0x1FFF00000000)
  | .wrMaskA _ => (0x102400000000, 0x1FFF00000000)
  | .wrSrcAvail _ => (0x102800000000, 0x1FFF00000000)
  | .wrPal _ _ => (0x140000000000, 0x1C0300000000)
  | .wrRoRow _ => (0x102C00000000, 0x1FFF00000000)
  | .wrRoCol _ => (0x103000000000, 0x1FFF00000000)
  | .wrRoId _ => (0x103C00000000, 0x1FFF00000000)
  | .wrUnmapped _ _ => (0x100000000000, 0x100000000000)

/-- The selector that a word of the opcode table stands for, from its width in whole bytes. A STEPSEL row has 7 bits, one
byte. FMTSEL has 48 bits and BUSX 45, six bytes both: a six-byte word is one of the five exact FMTSEL rows, else a BUSX word
if its bits above 44 are 0, else an FMTSEL word of the lowest-priority row FMT_NONE (log entry 12). -/
def tableSelector (nbits w : Nat) : Option Selector :=
  if nbits = 7 ∨ nbits = 8 then
    if w < 2 ^ 7 then some (.stepsel (BitVec.ofNat 7 w)) else none
  else if nbits = 45 then
    if w < 2 ^ 45 then some (.busx (BitVec.ofNat 45 w)) else none
  else if nbits = 48 then
    if w = 0x4 ∨ w = 0x8 ∨ w = 0x18 ∨ w = 0x20 ∨ w = 0x30020 then some (.fmtsel (BitVec.ofNat 48 w))
    else if w < 2 ^ 45 then some (.busx (BitVec.ofNat 45 w))
    else if w < 2 ^ 48 then some (.fmtsel (BitVec.ofNat 48 w))
    else none
  else none

/-- The instruction that the decoder reads from a word of the opcode table. -/
def decodeTableWord (nbits w : Nat) : Option Instr :=
  match tableSelector nbits w with
  | none => none
  | some sel =>
    match decode sel with
    | .ok i => some i
    | .error _ => none

end Sys2Proof
end

