-- ==== Sys2Proof/Config.lean ====
section
/-! DEFINITION. What an implementation fixes (spec/00_scope.md rule R8) and the one free value of the block. -/

namespace Sys2Proof

/-- The constant that the ID register reads as (R29, D25). -/
def Config.idValue : Word := 0x455A0100#32

/-- FREE VALUE. The contents PAL_INIT of palette entry `entry` before HOST writes it, at the `draw`-th draw since power-on:
R33 and D44 take it "afresh at each reset", "under no law". It has no body: no proof can see a value of it
(log entry 4). -/
opaque Config.palInit (draw : Nat) (entry : Byte) : Word

/-- The platform's base address of the CSR window, "which no rule of this block reads" (R65): nothing in the model
reads it either (log entry 15). -/
opaque Config.csrBase : Nat

end Sys2Proof
end

