-- ==== Sys2Proof/Machine/State.lean ====
section
/-! DEFINITION. The state of the block (spec/10_state.md), grouped as its rule R19 groups it, with the three other agents of
rule R9 held as plain data beside it; the reasons a step can stop; and the state right after reset (R46). -/

namespace Sys2Proof.Machine

/-- The writable fields of CTRL (R21). START and SOFT_RESET are pulses that read as 0, not stored. -/
structure Ctrl where
  /-- [4] R22: pass the stream's alpha byte in RGB32. -/
  alpha32Pass : Bool
  /-- [5] R23: 0 ARGB, 1 RGBA. -/
  outOrder : Bool
  /-- [8] R171: enable `irq`. -/
  irqEn : Bool
deriving DecidableEq, Repr

/-- The stored fields of STATUS (R24). BUSY is computed from the run phase (R48). -/
structure Status where
  /-- [1] a run has completed. -/
  done : Bool
  /-- [2] the last START check failed. -/
  error : Bool
  /-- [5:4] R163: 0 none, 1 NOT_SUPPORTED, 2 INVALID_IMAGE. -/
  errcode : BitVec 2
  /-- [10:8] R25, R76: the format chosen at the last START. -/
  fmt : FmtCode
  /-- [16] R148: a bus write was ignored because the block was busy; sticky. -/
  ignwr : Bool
deriving DecidableEq, Repr

/-- The configuration registers (R26). -/
structure CfgRegs where
  bpp : BitVec 16
  compression : Word
  width : Word
  height : Word
  maskR : Word
  maskG : Word
  maskB : Word
  maskA : Word
  srcAvail : Word
deriving DecidableEq, Repr

/-- Memory as the bytes written, by CSR byte address: addresses strictly rising (Memory.wf in Ops.lean). -/
abbrev Memory := List Host.Cell

/-- The palette RAM (R31, R33): the bytes HOST has written since the last reset, at their CSR byte addresses (R50, R51), and
which draw of PAL_INIT the other bytes read from (log entries 4 and 5). -/
structure Palette where
  mem : Memory
  /-- The model's own counter of resets: R33 draws PAL_INIT afresh at each. -/
  draw : Nat
deriving DecidableEq, Repr

/-- The run phase (R34); the code 0b11 is never reached. -/
inductive Fsm where
  | idle
  | pix
  | pad
deriving DecidableEq, Repr

/-- The internal run state (R34 to R38). -/
structure Run where
  fsm : Fsm
  /-- Stored rows fully processed (R35). -/
  row : Word
  /-- Pixels emitted in the current stored row (R35). -/
  col : Word
  /-- The bytes of the current pixel (R36). -/
  acc : Vector Byte 4
  /-- How many of them have been taken (R36). -/
  accN : Fin 5
  /-- The last byte taken for an IDX4 high-nibble pixel (R37). -/
  nib : Byte
  /-- The nibble phase (R37). -/
  nibph : Bool
  /-- Padding bytes still to be discarded (R38). -/
  padLeft : BitVec 2
deriving DecidableEq, Repr

/-- One output beat (R88). -/
structure Beat where
  data : Word
  eol : Bool
  eof : Bool
deriving DecidableEq, Repr

/-- One entry of the schedule: who moves next, and with what (R9; log entry 1). R9 lets a step of SRC offer one byte, and R158,
R195 and R196 have HOST rewind or flush SRC without giving a step for it: that a flush is one turn of its own, which may come
anywhere and takes back every byte offered and not taken, is the model's choice (DESIGN CHOICE, log entry 22). -/
inductive Turn where
  /-- HOST issues one bus transaction (R144). -/
  | host (w : Busx)
  /-- SRC offers one more byte (R9). -/
  | src (b : Byte)
  /-- SRC is flushed: the bytes offered and not taken are withdrawn (R158, R195, R196, I17; DESIGN CHOICE, log entry 22). -/
  | srcFlush
  /-- SINK becomes ready, or not ready (R9). -/
  | sink (ready : Bool)
  /-- UNPACKER moves, if one of its steps is enabled (R79). -/
  | unpacker
  /-- `rst` is asserted and released (R183). -/
  | rst
deriving DecidableEq, Repr

/-- The other agents of R9 as plain data: what SRC has offered, what SINK has accepted, whether SINK is ready, what reads have
returned to HOST, and the turns to come. By R10 these are parameters and observations of a run, not state of the block. -/
structure Env where
  /-- Bytes offered and not yet taken, oldest first. -/
  inQ : List Byte
  /-- Beats accepted, oldest first. -/
  outQ : List Beat
  sinkReady : Bool
  /-- Values bus reads returned, oldest first. -/
  rdLog : List Word
  /-- The turns to come, next first; once empty, UNPACKER moves (log entry 1). -/
  sched : List Turn
deriving DecidableEq, Repr

structure State where
  ctrl : Ctrl
  status : Status
  cfg : CfgRegs
  pal : Palette
  run : Run
  env : Env
deriving DecidableEq, Repr

/-- Why the machine stops. Neither is an outcome of the hardware: both are raised only in states that R47 calls unreachable. -/
inductive Fault where
  /-- Raised by UNPACKER's turn when the step selector matches no row: R79 "a model faults: unreachable step selector". SAFE. -/
  | unreachableStepSelector
  /-- Raised by IN_BYTE when S.accN = 4, since S.acc has no element 4 (R36). SAFE (log entry 9). -/
  | assemblyBufferFull
deriving DecidableEq, Repr

/-- Why an instruction is refused. -/
inductive Refusal where
  /-- Raised by exec's arm of an instruction that has no meaning yet; no arm raises it now. SAFE. -/
  | notModelled (mnemonic : String)
deriving DecidableEq, Repr

/-- Reset values of the run state (R46). -/
def Run.reset : Run :=
  { fsm := .idle, row := 0, col := 0, acc := #v[0x00, 0x00, 0x00, 0x00], accN := 0, nib := 0x00, nibph := false, padLeft := 0 }

/-- The machine right after power-on and its reset: every field at R46's value; the palette not written, so that it reads as
PAL_INIT (R33); nothing offered, accepted, read or scheduled, and SINK ready (log entries 1 to 4). -/
def State.reset : State where
  ctrl := { alpha32Pass := false, outOrder := false, irqEn := false }
  status := { done := false, error := false, errcode := 0, fmt := 0, ignwr := false }
  cfg := { bpp := 0, compression := 0, width := 0, height := 0, maskR := 0, maskG := 0, maskB := 0, maskA := 0, srcAvail := 0 }
  pal := { mem := [], draw := 0 }
  run := Run.reset
  env := { inQ := [], outQ := [], sinkReady := true, rdLog := [], sched := [] }

end Sys2Proof.Machine
end

