-- ==== Sys2Proof/Machine/Ops.lean ====
section
/-! DEFINITION. The named operations over memory, streams and registers: the primitives of spec/00_scope.md rule R15, the
error entry of spec/60_exceptions.md rule R165, and the updates the step rules are written with. -/

namespace Sys2Proof.Machine

/-! ### Bytes and words (R13) -/

/-- `bytes[b0, b1, b2, b3]` = b0 | b1<<8 | b2<<16 | b3<<24 (R13). -/
def bytes32 (b0 b1 b2 b3 : Byte) : Word :=
  b0.setWidth 32 ||| b1.setWidth 32 <<< 8 ||| b2.setWidth 32 <<< 16 ||| b3.setWidth 32 <<< 24

/-- Byte k of a word: bits [8k+7 : 8k] (R50, R88). -/
def byteOf (k : Nat) (w : Word) : Byte := w.extractLsb' (8 * k) 8

/-! ### Memory -/

/-- The byte written at an address, if one was. -/
def Memory.find (a : Nat) : Memory → Option Byte
  | [] => none
  | c :: rest => if c.1 = a then some c.2 else Memory.find a rest

/-- Write one byte, keeping addresses strictly rising. -/
def Memory.writeByte (a : Nat) (b : Byte) : Memory → Memory
  | [] => [(a, b)]
  | c :: rest =>
    if a < c.1 then (a, b) :: c :: rest
    else if a = c.1 then (a, b) :: rest
    else c :: Memory.writeByte a b rest

/-- Addresses are strictly rising. -/
def Memory.rising : Memory → Bool
  | [] => true
  | [_] => true
  | c :: d :: rest => decide (c.1 < d.1) && Memory.rising (d :: rest)

/-- The canonical form: addresses strictly rising, all within the palette window 0x400 to 0x7FF (R51). An unlisted address
reads as the free value PAL_INIT, with which no byte can be compared, so the form asks nothing of the bytes (log entry 5). -/
def Memory.wf (m : Memory) : Bool :=
  Memory.rising m && m.all fun c => decide (0x400 ≤ c.1) && decide (c.1 < 0x800)

/-! ### Palette RAM (R31 to R33, R51) -/

/-- The CSR byte address of palette entry i: 0x400 + 4·i (R51). -/
def palByteAddr (entry : Byte) : Nat := 0x400 + 4 * entry.toNat

/-- What an unlisted address of the window reads as: its byte of PAL_INIT (R33). -/
def palUnlisted (draw a : Nat) : Byte :=
  byteOf (a % 4) (Config.palInit draw (BitVec.ofNat 8 ((a - 0x400) / 4)))

/-- The byte at an address of the palette window. -/
def Palette.readByte (p : Palette) (a : Nat) : Byte := (Memory.find a p.mem).getD (palUnlisted p.draw a)

/-- `PalRead(i)` (R15). -/
def Palette.read (p : Palette) (entry : Byte) : Word :=
  let a := palByteAddr entry
  bytes32 (p.readByte a) (p.readByte (a + 1)) (p.readByte (a + 2)) (p.readByte (a + 3))

/-- `PalWrite(i, v)` (R15): the four bytes of the entry, the least significant at the lowest address (R50). -/
def Palette.write (p : Palette) (entry : Byte) (v : Word) : Palette :=
  let a := palByteAddr entry
  { p with mem := Memory.writeByte (a + 3) (byteOf 3 v) (Memory.writeByte (a + 2) (byteOf 2 v)
      (Memory.writeByte (a + 1) (byteOf 1 v) (Memory.writeByte a (byteOf 0 v) p.mem))) }

/-! ### Streams (R15, R52, R53) -/

/-- `InPop()`: the head byte of the input stream; enabled only when SRC offers one. -/
def inPop (s : State) : Option (Byte × State) :=
  match s.env.inQ with
  | [] => none
  | b :: rest => some (b, { s with env.inQ := rest })

/-- `OutPush(beat)` with SINK ready: SINK accepts the beat. -/
def outPush (beat : Beat) (s : State) : State := { s with env.outQ := s.env.outQ ++ [beat] }

/-- SRC offers one more byte. -/
def srcOffer (b : Byte) (s : State) : State := { s with env.inQ := s.env.inQ ++ [b] }

/-- SRC is flushed: it withdraws every byte offered and not taken (R195, R196; DESIGN CHOICE, log entry 22). -/
def srcFlush (s : State) : State := { s with env.inQ := [] }

/-- SINK becomes ready, or not ready. -/
def sinkSet (ready : Bool) (s : State) : State := { s with env.sinkReady := ready }

/-- A bus read returns a value to HOST. -/
def returnRead (v : Word) (s : State) : State := { s with env.rdLog := s.env.rdLog ++ [v] }

/-! ### Run state -/

/-- The block is busy: STATUS.BUSY = (S.fsm ≠ IDLE) (R34, R48). -/
def busy (s : State) : Bool := s.run.fsm != .idle

/-- Store a byte as the next of the current pixel (R111). -/
def storeAcc (b : Byte) (n : Fin 5) (s : State) : State :=
  { s with run.acc := s.run.acc.setIfInBounds s.run.accN.val b, run.accN := n }

/-- The counters START clears (R99); S.acc and S.nib keep stale values (R103). -/
def clearCounters (s : State) : State :=
  { s with run.row := 0, run.col := 0, run.accN := 0, run.nibph := false, run.padLeft := 0 }

/-! ### STATUS updates -/

/-- The START check's first three statements (R99). -/
def clearOutcome (s : State) : State := { s with status.done := false, status.error := false, status.errcode := 0 }

/-- Write STATUS.FMT (R25). -/
def setFmt (fmt : FmtCode) (s : State) : State := { s with status.fmt := fmt }

/-- Set STATUS.DONE (R133, R102). -/
def setDone (s : State) : State := { s with status.done := true }

/-- Set STATUS.IGNWR (R148). -/
def setIgnwr (s : State) : State := { s with status.ignwr := true }

/-- The error kinds the block raises (R163). -/
inductive ErrorKind where
  | notSupported
  | invalidImage
deriving DecidableEq, Repr

/-- `code(E)` (R163). -/
def errcodeOf : ErrorKind → BitVec 2
  | .notSupported => 1
  | .invalidImage => 2

/-- TAKING AN ERROR, `raise E` (R165, R169): ERROR and ERRCODE are written, S.fsm stays as it is (IDLE), nothing is saved
elsewhere, there is no vector and no mode. What follows in the step is skipped by the caller. -/
def raise (e : ErrorKind) (s : State) : State := { s with status.error := true, status.errcode := errcodeOf e }

/-- LEAVING AN ERROR (R170, R150): ERROR and ERRCODE are cleared together. -/
def clearError (s : State) : State := { s with status.error := false, status.errcode := 0 }

/-! ### Reset (R157, R183) -/

/-- The statements of a soft reset (R157) but for the CTRL fields. -/
def softClear (s : State) : State :=
  { s with run := Run.reset, status := { done := false, error := false, errcode := 0, fmt := 0, ignwr := false } }

/-- `rst` (R183, R185): the block's state as R46 says and a fresh draw of the palette; the streams and the other agents stay as
they are (log entry 13). -/
def hardReset (s : State) : State :=
  { State.reset with pal := { mem := [], draw := s.pal.draw + 1 }, env := s.env }

end Sys2Proof.Machine
end

