-- ==== Sys2Proof/Machine/Operands.lean ====
section
/-! DEFINITION. Every operand form and derived value of the pixel paths: bytes needed per pixel, image dimensions, row and
padding lengths, palette colour, bitfield channels, and the order of an output beat. -/

namespace Sys2Proof.Machine

/-! ### Selectors formed from the state -/

/-- The two-bit code of the run phase (R34). -/
def fsmCode : Fsm → BitVec 2
  | .idle => FsmCode.idle
  | .pix => FsmCode.pix
  | .pad => FsmCode.pad

/-- `need(FMT, nibph)` (R110). Outside its table (FMT NONE or reserved; nibph = 1 in a format other than IDX4), states R110
calls unreachable: 0 for no format, and no dependence on nibph (log entry 6). -/
def need (fmt : FmtCode) (nibph : Bool) : Fin 5 :=
  if fmt = Fmt.idx4 then (if nibph then 0 else 1)
  else if fmt = Fmt.idx8 then 1
  else if fmt = Fmt.rgb24 then 3
  else if fmt = Fmt.rgb32 then 4
  else if fmt = Fmt.bf32 then 4
  else 0

/-- FULL of the step selector: S.accN = need(FMT, S.nibph) (R78). -/
def full (s : State) : Bool := s.run.accN == need s.status.fmt s.run.nibph

/-- The step selector of a state (R78). -/
def stepsel (s : State) : Stepsel := stepselOf (full s) (fsmCode s.run.fsm) s.status.fmt s.run.nibph

/-- The format selector of a state (R74). -/
def fmtsel (s : State) : Fmtsel := fmtselOf s.cfg.compression s.cfg.bpp

/-! ### Dimensions and lengths -/

/-- The magnitude of an i32 register as a natural number; |−2^31| = 2^31 (R97). -/
def magnitude (v : Word) : Nat := if v.getLsbD 31 then 2 ^ 32 - v.toNat else v.toNat

/-- W = |CSR.WIDTH| (R97). -/
def imageW (s : State) : Nat := magnitude s.cfg.width

/-- H = |CSR.HEIGHT| (R97). -/
def imageH (s : State) : Nat := magnitude s.cfg.height

/-- `rowBytes(FMT, W)` (R127); 0 for no format, where the table has no row (log entry 6). -/
def rowBytes (fmt : FmtCode) (w : Nat) : Nat :=
  if fmt = Fmt.idx4 then (w + 1) / 2
  else if fmt = Fmt.idx8 then w
  else if fmt = Fmt.rgb24 then 3 * w
  else if fmt = Fmt.rgb32 then 4 * w
  else if fmt = Fmt.bf32 then 4 * w
  else 0

/-- `pad(FMT, W)`, 0 to 3 (R128). -/
def padBytes (fmt : FmtCode) (w : Nat) : Nat := (4 - rowBytes fmt w % 4) % 4

/-- `stride(FMT, W)`, a multiple of 4 (R128). -/
def stride (fmt : FmtCode) (w : Nat) : Nat := rowBytes fmt w + padBytes fmt w

/-- The pixel bytes an image needs, exact (R98). -/
def required (fmt : FmtCode) (w h : Nat) : Nat := stride fmt w * h

/-! ### Channels -/

/-- The four channels of one pixel (R112). -/
structure Pixel where
  a : Byte
  r : Byte
  g : Byte
  b : Byte
deriving DecidableEq, Repr

/-- The channels of a palette entry: R = [23:16], G = [15:8], B = [7:0], alpha forced to 0xFF, [31:24] not used (R113). -/
def colourOf (e : Word) : Pixel := { a := 0xFF, r := byteOf 2 e, g := byteOf 1 e, b := byteOf 0 e }

/-- `palPix(i)` (R113). -/
def palPix (s : State) (i : Byte) : Pixel := colourOf (s.pal.read i)

/-- The high nibble, zero-extended: the first pixel of an IDX4 byte (R82, R89). -/
def hiNibble (b : Byte) : Byte := (b.extractLsb' 4 4).setWidth 8

/-- The low nibble, zero-extended: the second pixel of an IDX4 byte (R82, R89). -/
def loNibble (b : Byte) : Byte := (b.extractLsb' 0 4).setWidth 8

/-- A 24-bit pixel: bytes B, G, R, alpha forced to 0xFF (R84, R117). -/
def rgb24Pixel (acc : Vector Byte 4) : Pixel := { a := 0xFF, r := acc[2], g := acc[1], b := acc[0] }

/-- A plain 32-bit pixel: bytes B, G, R, A; the alpha byte is passed or forced to 0xFF as CTRL.ALPHA32_PASS says (R85, R118). -/
def rgb32Pixel (alpha32Pass : Bool) (acc : Vector Byte 4) : Pixel :=
  { a := if alpha32Pass then acc[3] else 0xFF, r := acc[2], g := acc[1], b := acc[0] }

/-- The least-significant-set-bit helper: −1 for a zero mask (R119). -/
def lsb (m : Word) : Int :=
  match (List.range 32).find? fun k => m.getLsbD k with
  | some k => k
  | none => -1

/-- Channel extraction (R120): 0 for a zero mask, else the masked word shifted down to the mask's lowest set bit, mod 256. -/
def chan (word m : Word) : Byte := if m = 0 then 0x00 else ((word &&& m) >>> (lsb m).toNat).setWidth 8

/-- A bitfield pixel: the little-endian word's channels under the four masks (R86, R121). -/
def bf32Pixel (cfg : CfgRegs) (acc : Vector Byte 4) : Pixel :=
  let word := bytes32 acc[0] acc[1] acc[2] acc[3]
  { a := chan word cfg.maskA, r := chan word cfg.maskR, g := chan word cfg.maskG, b := chan word cfg.maskB }

/-! ### The output beat -/

/-- `pack(a, r, g, b, order)`: ARGB bytes for order 0, RGBA bytes for order 1 (R138). -/
def pack (p : Pixel) (order : Bool) : Word :=
  if order then bytes32 p.r p.g p.b p.a else bytes32 p.a p.r p.g p.b

/-- The last pixel of the stored row (R112). -/
def eolAt (s : State) : Bool := decide (s.run.col.toNat + 1 = imageW s)

/-- The last pixel of the run (R112). -/
def eofAt (s : State) : Bool := eolAt s && decide (s.run.row.toNat + 1 = imageH s)

/-- The beat of a pixel at the current position (R112). -/
def beatOf (p : Pixel) (s : State) : Beat := { data := pack p s.ctrl.outOrder, eol := eolAt s, eof := eofAt s }

end Sys2Proof.Machine
end

