-- ==== Sys2Proof/Machine/Flags.lean ====
section
/-! DEFINITION. How the CTRL and STATUS registers read, what acknowledges the status flags, and the output signals of
spec/10_state.md rule R42. -/

namespace Sys2Proof.Machine

/-- CTRL as it reads (R146). -/
def ctrlWord (c : Ctrl) : Word :=
  0#23 ++ BitVec.ofBool c.irqEn ++ 0#2 ++ BitVec.ofBool c.outOrder ++ BitVec.ofBool c.alpha32Pass ++ 0#2 ++ 0#1 ++ 0#1

/-- STATUS as it reads (R146), BUSY computed (R48). -/
def statusWord (s : State) : Word :=
  0#15 ++ BitVec.ofBool s.status.ignwr ++ 0#5 ++ s.status.fmt ++ 0#2 ++ s.status.errcode ++ 0#1 ++
    BitVec.ofBool s.status.error ++ BitVec.ofBool s.status.done ++ BitVec.ofBool (busy s)

/-- The fields a CTRL write carries: DATA[4], DATA[5], DATA[8] (R147, R157). -/
def ctrlOfData (data : Word) : Ctrl :=
  { alpha32Pass := data.getLsbD 4, outOrder := data.getLsbD 5, irqEn := data.getLsbD 8 }

/-- W1C of DONE (R150). -/
def ackDone (data : Word) (s : State) : State := if data.getLsbD 1 then { s with status.done := false } else s

/-- W1C of ERROR, which clears ERRCODE with it (R150, R170). -/
def ackError (data : Word) (s : State) : State := if data.getLsbD 2 then clearError s else s

/-- W1C of IGNWR (R150). -/
def ackIgnwr (data : Word) (s : State) : State := if data.getLsbD 16 then { s with status.ignwr := false } else s

/-- `irq`, a level (R42, R171). -/
def irq (s : State) : Bool := s.ctrl.irqEn && (s.status.done || s.status.error)

/-- `in_ready`: the block takes an input byte if one is offered (R42). -/
def inReady (s : State) : Bool :=
  (s.run.fsm == .pix && decide (s.run.accN < need s.status.fmt s.run.nibph)) || s.run.fsm == .pad

/-- `out_valid`: the block has a pixel ready to emit (R42). -/
def outValid (s : State) : Bool := s.run.fsm == .pix && full s

end Sys2Proof.Machine
end

