-- ==== Sys2Proof/Machine/Start.lean ====
section
/-! DEFINITION. The START check and the meaning of the six FMTSEL rows (spec/40_dispatch.md). A row's meaning is the rest of
the START check once the dispatch has chosen it; a run reaches it through WR_CTRL_START, in the same atomic step (R95). -/

namespace Sys2Proof.Machine

/-- START with the checks passed: an empty image is DONE at once (R102), another begins in PIX (R103). -/
def beginRun (s : State) : State :=
  let s := clearCounters s
  if imageW s = 0 ∨ imageH s = 0 then setDone s else { s with run.fsm := .pix }

/-- The START check of R99 after the dispatch has chosen `fmt`; NotSupported is checked before InvalidImage (R168). -/
def startSelected (fmt : FmtCode) (s : State) : State :=
  let s := setFmt fmt (clearOutcome s)
  if fmt = Fmt.none then raise .notSupported s
  else if required fmt (imageW s) (imageH s) > s.cfg.srcAvail.toNat then raise .invalidImage s
  else beginRun s

/-- The START check (R99): dispatch on (COMPRESSION, BPP), then the rest. -/
def startCheck (s : State) : State := startSelected (fmtOf s.cfg.compression s.cfg.bpp) s

/-- FMT_IDX4 (R96, R99). -/
def execFmtIdx4 (s : State) : Host.Outcome State Fault Refusal := .next (startSelected Fmt.idx4 s)

/-- FMT_IDX8 (R96, R99). -/
def execFmtIdx8 (s : State) : Host.Outcome State Fault Refusal := .next (startSelected Fmt.idx8 s)

/-- FMT_RGB24 (R96, R99). -/
def execFmtRgb24 (s : State) : Host.Outcome State Fault Refusal := .next (startSelected Fmt.rgb24 s)

/-- FMT_RGB32 (R96, R99). -/
def execFmtRgb32 (s : State) : Host.Outcome State Fault Refusal := .next (startSelected Fmt.rgb32 s)

/-- FMT_BF32 (R96, R99). -/
def execFmtBf32 (s : State) : Host.Outcome State Fault Refusal := .next (startSelected Fmt.bf32 s)

/-- FMT_NONE (NotSupported) (R100). -/
def execFmtNone (s : State) : Host.Outcome State Fault Refusal := .next (startSelected Fmt.none s)

end Sys2Proof.Machine
end

