-- ==== Sys2Proof/Machine/HostBus.lean ====
section
/-! DEFINITION. The meaning of the nineteen BUSX rows (spec/44_host_bus.md). A transaction never fails, stalls or raises (R144). -/

namespace Sys2Proof.Machine

/-! ### Shared operations -/

/-- `readValue(a)` (R146). -/
def readValue (s : State) (a : CsrAddr) : Word :=
  if a = 0x000 then ctrlWord s.ctrl
  else if a = 0x004 then statusWord s
  else if a = 0x008 then s.cfg.bpp.setWidth 32
  else if a = 0x00C then s.cfg.compression
  else if a = 0x010 then s.cfg.width
  else if a = 0x014 then s.cfg.height
  else if a = 0x018 then s.cfg.maskR
  else if a = 0x01C then s.cfg.maskG
  else if a = 0x020 then s.cfg.maskB
  else if a = 0x024 then s.cfg.maskA
  else if a = 0x028 then s.cfg.srcAvail
  else if a = 0x02C then s.run.row
  else if a = 0x030 then s.run.col
  else if a = 0x03C then Config.idValue
  else if isPaletteAddr a then s.pal.read (paletteEntry a)
  else 0

/-- A CTRL write with SOFT_RESET = 0 (R147). -/
def writeCtrl (data : Word) (s : State) : State :=
  let s := { s with ctrl.irqEn := data.getLsbD 8 }
  if s.run.fsm = .idle then
    let s := { s with ctrl.alpha32Pass := data.getLsbD 4, ctrl.outOrder := data.getLsbD 5 }
    if data.getLsbD 0 then startCheck s else s
  else if data.getLsbD 0 ∨ data.getLsbD 4 ≠ s.ctrl.alpha32Pass ∨ data.getLsbD 5 ≠ s.ctrl.outOrder then setIgnwr s
  else s

/-- A write that is ignored while the block is busy and then sets IGNWR (R148). -/
def whenIdle (store : State → State) (s : State) : Host.Outcome State Fault Refusal :=
  .next (if s.run.fsm = .idle then store s else setIgnwr s)

/-- A soft reset (R157). -/
def softReset (data : Word) (s : State) : State := { softClear s with ctrl := ctrlOfData data }

/-- A STATUS write (R150). -/
def writeStatus (data : Word) (s : State) : State := ackIgnwr data (ackError data (ackDone data s))

/-! ### The commands -/

/-- RD (R145): the value is returned; nothing else changes. -/
def execRd (addr : CsrAddr) (s : State) : Host.Outcome State Fault Refusal := .next (returnRead (readValue s addr) s)

/-- WR_CTRL_SRST (R157). -/
def execWrCtrlSrst (data : Word) (s : State) : Host.Outcome State Fault Refusal := .next (softReset data s)

/-- WR_CTRL_START (R95, R147). -/
def execWrCtrlStart (data : Word) (s : State) : Host.Outcome State Fault Refusal := .next (writeCtrl data s)

/-- WR_CTRL (R147). -/
def execWrCtrl (data : Word) (s : State) : Host.Outcome State Fault Refusal := .next (writeCtrl data s)

/-- WR_STATUS (R150). -/
def execWrStatus (data : Word) (s : State) : Host.Outcome State Fault Refusal := .next (writeStatus data s)

/-- WR_BPP (R149): DATA[31:16] is ignored. -/
def execWrBpp (data : Word) (s : State) : Host.Outcome State Fault Refusal :=
  whenIdle (fun s => { s with cfg.bpp := data.setWidth 16 }) s

/-- WR_COMPRESSION (R149). -/
def execWrCompression (data : Word) (s : State) : Host.Outcome State Fault Refusal :=
  whenIdle (fun s => { s with cfg.compression := data }) s

/-- WR_WIDTH (R149). -/
def execWrWidth (data : Word) (s : State) : Host.Outcome State Fault Refusal :=
  whenIdle (fun s => { s with cfg.width := data }) s

/-- WR_HEIGHT (R149). -/
def execWrHeight (data : Word) (s : State) : Host.Outcome State Fault Refusal :=
  whenIdle (fun s => { s with cfg.height := data }) s

/-- WR_MASK_R (R149). -/
def execWrMaskR (data : Word) (s : State) : Host.Outcome State Fault Refusal :=
  whenIdle (fun s => { s with cfg.maskR := data }) s

/-- WR_MASK_G (R149). -/
def execWrMaskG (data : Word) (s : State) : Host.Outcome State Fault Refusal :=
  whenIdle (fun s => { s with cfg.maskG := data }) s

/-- WR_MASK_B (R149). -/
def execWrMaskB (data : Word) (s : State) : Host.Outcome State Fault Refusal :=
  whenIdle (fun s => { s with cfg.maskB := data }) s

/-- WR_MASK_A (R149). -/
def execWrMaskA (data : Word) (s : State) : Host.Outcome State Fault Refusal :=
  whenIdle (fun s => { s with cfg.maskA := data }) s

/-- WR_SRC_AVAIL (R149). -/
def execWrSrcAvail (data : Word) (s : State) : Host.Outcome State Fault Refusal :=
  whenIdle (fun s => { s with cfg.srcAvail := data }) s

/-- WR_PAL (R151). -/
def execWrPal (entry : Byte) (data : Word) (s : State) : Host.Outcome State Fault Refusal :=
  whenIdle (fun s => { s with pal := s.pal.write entry data }) s

/-- WR_RO to ROW (R154): nothing changes. -/
def execWrRoRow (s : State) : Host.Outcome State Fault Refusal := .next s

/-- WR_RO to COL (R154): nothing changes. -/
def execWrRoCol (s : State) : Host.Outcome State Fault Refusal := .next s

/-- WR_RO to ID (R154): nothing changes. -/
def execWrRoId (s : State) : Host.Outcome State Fault Refusal := .next s

/-- WR_UNMAPPED (R152, R153): nothing changes, and IGNWR is not set. -/
def execWrUnmapped (s : State) : Host.Outcome State Fault Refusal := .next s

end Sys2Proof.Machine
end

