-- ==== Sys2Proof/Machine/Unpacker.lean ====
section
/-! DEFINITION. The row sequencing of spec/42_row_padding.md and the meaning of the nine STEPSEL rows
(spec/41_pixel_paths.md). A step whose primitive is not enabled does not fire (R15): its turn changes nothing (log entry 7). -/

namespace Sys2Proof.Machine

/-! ### Row sequencing -/

/-- `rowEnd()` (R132, R133). -/
def rowEnd (s : State) : State :=
  let s := { s with run.row := s.run.row + 1, run.col := 0, run.padLeft := 0 }
  if s.run.row.toNat = imageH s then setDone { s with run.fsm := .idle } else { s with run.fsm := .pix }

/-- The end of a row's pixels in `advance()`: an unused low nibble is dropped (R136), then padding or the end of the row (R130). -/
def endPixels (s : State) : State :=
  let s := { s with run.col := BitVec.ofNat 32 (imageW s), run.nibph := false }
  let p := padBytes s.status.fmt (imageW s)
  if p > 0 then { s with run.padLeft := BitVec.ofNat 2 p, run.fsm := .pad } else rowEnd s

/-- `advance()` (R130). -/
def advance (s : State) : State :=
  let s := { s with run.accN := 0 }
  if s.run.col.toNat + 1 = imageW s then endPixels s else { s with run.col := s.run.col + 1 }

/-- `emit(a, r, g, b)` (R112): the beat is handed over and the position advances, in one step. -/
def emit (p : Pixel) (s : State) : State := advance (outPush (beatOf p s) s)

/-- An EMIT step fires only when SINK is ready (R112, R79). -/
def whenSinkReady (fire : State → State) (s : State) : Host.Outcome State Fault Refusal :=
  .next (if s.env.sinkReady then fire s else s)

/-- Keep the byte of a high-nibble pixel for the low-nibble one (R114). -/
def keepNibble (s : State) : State := { s with run.nib := s.run.acc[0], run.nibph := true }

/-- The statements of PAD_SKIP once a byte has been taken (R131). -/
def skipPad (s : State) : State :=
  let s := { s with run.padLeft := s.run.padLeft - 1 }
  if s.run.padLeft = 0 then rowEnd s else s

/-! ### The steps -/

/-- IDLE: no UNPACKER step is enabled (R79). -/
def execIdle (s : State) : Host.Outcome State Fault Refusal := .next s

/-- IN_BYTE (R111). S.acc has no element 4: with S.accN = 4, which R47 excludes here, the model stops (log entry 9). -/
def execInByte (s : State) : Host.Outcome State Fault Refusal :=
  match inPop s with
  | none => .next s
  | some (b, s) =>
    if h : s.run.accN.val + 1 < 5 then .next (storeAcc b ⟨s.run.accN.val + 1, h⟩ s) else .fault .assemblyBufferFull

/-- EMIT_IDX4_HI (R114). -/
def execEmitIdx4Hi (s : State) : Host.Outcome State Fault Refusal :=
  whenSinkReady (fun s => emit (palPix s (hiNibble s.run.acc[0])) (keepNibble s)) s

/-- EMIT_IDX4_LO (R115). -/
def execEmitIdx4Lo (s : State) : Host.Outcome State Fault Refusal :=
  whenSinkReady (fun s => emit (palPix s (loNibble s.run.nib)) { s with run.nibph := false }) s

/-- EMIT_IDX8 (R116). -/
def execEmitIdx8 (s : State) : Host.Outcome State Fault Refusal :=
  whenSinkReady (fun s => emit (palPix s s.run.acc[0]) s) s

/-- EMIT_RGB24 (R117). -/
def execEmitRgb24 (s : State) : Host.Outcome State Fault Refusal :=
  whenSinkReady (fun s => emit (rgb24Pixel s.run.acc) s) s

/-- EMIT_RGB32 (R118). -/
def execEmitRgb32 (s : State) : Host.Outcome State Fault Refusal :=
  whenSinkReady (fun s => emit (rgb32Pixel s.ctrl.alpha32Pass s.run.acc) s) s

/-- EMIT_BF32 (R121). -/
def execEmitBf32 (s : State) : Host.Outcome State Fault Refusal :=
  whenSinkReady (fun s => emit (bf32Pixel s.cfg s.run.acc) s) s

/-- PAD_SKIP (R131). -/
def execPadSkip (s : State) : Host.Outcome State Fault Refusal :=
  match inPop s with
  | none => .next s
  | some (_, s) => .next (skipPad s)

end Sys2Proof.Machine
end

