-- ==== Sys2Proof/Machine/Dispatch.lean ====
section
/-! DEFINITION. exec: one arm per constructor of Instr, each one direct call of that instruction's meaning. -/

namespace Sys2Proof.Machine

def exec (i : Instr) (s : State) : Host.Outcome State Fault Refusal :=
  match i with
  -- FMTSEL (spec/40_dispatch.md)
  | .fmtIdx4 => Sys2Proof.Machine.execFmtIdx4 s
  | .fmtIdx8 => Sys2Proof.Machine.execFmtIdx8 s
  | .fmtRgb24 => Sys2Proof.Machine.execFmtRgb24 s
  | .fmtRgb32 => Sys2Proof.Machine.execFmtRgb32 s
  | .fmtBf32 => Sys2Proof.Machine.execFmtBf32 s
  | .fmtNone _ _ => Sys2Proof.Machine.execFmtNone s
  -- STEPSEL (spec/41_pixel_paths.md, spec/42_row_padding.md)
  | .idle _ _ _ => Sys2Proof.Machine.execIdle s
  | .inByte _ _ => Sys2Proof.Machine.execInByte s
  | .emitIdx4Hi => Sys2Proof.Machine.execEmitIdx4Hi s
  | .emitIdx4Lo => Sys2Proof.Machine.execEmitIdx4Lo s
  | .emitIdx8 => Sys2Proof.Machine.execEmitIdx8 s
  | .emitRgb24 => Sys2Proof.Machine.execEmitRgb24 s
  | .emitRgb32 => Sys2Proof.Machine.execEmitRgb32 s
  | .emitBf32 => Sys2Proof.Machine.execEmitBf32 s
  | .padSkip _ _ _ => Sys2Proof.Machine.execPadSkip s
  -- BUSX (spec/44_host_bus.md)
  | .rd addr _ => Sys2Proof.Machine.execRd addr s
  | .wrCtrlSrst data => Sys2Proof.Machine.execWrCtrlSrst data s
  | .wrCtrlStart data => Sys2Proof.Machine.execWrCtrlStart data s
  | .wrCtrl data => Sys2Proof.Machine.execWrCtrl data s
  | .wrStatus data => Sys2Proof.Machine.execWrStatus data s
  | .wrBpp data => Sys2Proof.Machine.execWrBpp data s
  | .wrCompression data => Sys2Proof.Machine.execWrCompression data s
  | .wrWidth data => Sys2Proof.Machine.execWrWidth data s
  | .wrHeight data => Sys2Proof.Machine.execWrHeight data s
  | .wrMaskR data => Sys2Proof.Machine.execWrMaskR data s
  | .wrMaskG data => Sys2Proof.Machine.execWrMaskG data s
  | .wrMaskB data => Sys2Proof.Machine.execWrMaskB data s
  | .wrMaskA data => Sys2Proof.Machine.execWrMaskA data s
  | .wrSrcAvail data => Sys2Proof.Machine.execWrSrcAvail data s
  | .wrPal entry data => Sys2Proof.Machine.execWrPal entry data s
  | .wrRoRow _ => Sys2Proof.Machine.execWrRoRow s
  | .wrRoCol _ => Sys2Proof.Machine.execWrRoCol s
  | .wrRoId _ => Sys2Proof.Machine.execWrRoId s
  | .wrUnmapped _ _ => Sys2Proof.Machine.execWrUnmapped s

end Sys2Proof.Machine
end

