-- ==== Sys2Proof/Machine/Fetch.lean ====
section
/-! DEFINITION. Which instruction comes next: the schedule's next turn, the selectors it decodes, and how a word of
spec/opcode_table.json is placed so that the very next step runs it. -/

namespace Sys2Proof.Machine

/-- The next turn and the turns after it. Once the schedule is empty, UNPACKER moves (log entry 1). -/
def nextTurn : List Turn → Turn × List Turn
  | [] => (.unpacker, [])
  | t :: rest => (t, rest)

/-- The state once its next turn has been taken off the schedule. -/
def afterTurn (s : State) : State := { s with env.sched := (nextTurn s.env.sched).2 }

/-- What a turn asks the machine to do: an instruction to run, or a move of SRC, SINK or `rst`, which is no instruction. -/
inductive Move where
  | instr (i : Instr)
  | fault (f : Fault)
  | other (t : State)
deriving DecidableEq, Repr

/-- The move of a turn, in the state its step starts from: HOST's transaction decoded (R81), UNPACKER's step selected (R79),
or what SRC (R9; its flush R195, log entry 22), SINK (R9) or `rst` (R183) does. -/
def moveOf (t : Turn) (s : State) : Move :=
  match t with
  | .host w => .instr (decodeBusx w)
  | .unpacker =>
    match decodeStepsel (stepsel s) with
    | .ok i => .instr i
    | .error .unreachableStepSelector => .fault .unreachableStepSelector
  | .src b => .other (srcOffer b s)
  | .srcFlush => .other (srcFlush s)
  | .sink ready => .other (sinkSet ready s)
  | .rst => .other (hardReset s)

/-- The move of the next step. -/
def nextMove (s : State) : Move := moveOf (nextTurn s.env.sched).1 (afterTurn s)

/-! ### Placing one word of the opcode table (log entries 11, 12, 17, 18) -/

/-- Put a turn at the front of the schedule. -/
def schedule (t : Turn) (s : State) : State := { s with env.sched := t :: s.env.sched }

/-- A value of S.accN that makes FULL of the step selector what it is to be (R78). -/
def accNFor (full : Bool) (fmt : FmtCode) (nibph : Bool) : Fin 5 :=
  if full then need fmt nibph else if need fmt nibph = 0 then 1 else 0

/-- The run phase of a two-bit code; 0b11 is no phase (R34). -/
def fsmOfCode (c : BitVec 2) : Option Fsm :=
  if c = FsmCode.idle then some .idle
  else if c = FsmCode.pix then some .pix
  else if c = FsmCode.pad then some .pad
  else none

/-- Make the step selector of the state be `w`, and the primitive of its step enabled: a byte offered to IN_BYTE and PAD_SKIP,
SINK ready for an EMIT step (R15). -/
def placeStepsel (w : Stepsel) (s : State) : State :=
  match fsmOfCode (w.extractLsb' 4 2) with
  | none => s
  | some fsm =>
    let fmt := w.extractLsb' 1 3
    let nibph := w.getLsbD 0
    let s := { s with run.fsm := fsm, run.nibph := nibph, run.accN := accNFor (w.getLsbD 6) fmt nibph, status.fmt := fmt }
    if fsm = .pix ∧ w.getLsbD 6 then { s with env.sinkReady := true }
    else if fsm ≠ .idle ∧ s.env.inQ = [] then { s with env.inQ := [0x00] }
    else s

/-- Make the format selector of the state be `w`, and HOST's next transaction a START that repeats the CTRL fields, so that the
START check dispatches on it (R95). -/
def placeFmtsel (w : Fmtsel) (s : State) : State :=
  let s := { s with cfg.compression := w.extractLsb' 16 32, cfg.bpp := w.extractLsb' 0 16, run.fsm := .idle }
  schedule (.host (busxOf true 0x000 (ctrlWord s.ctrl ||| 1))) s

/-- Place a selector so that the next step decodes and runs it. -/
def placeSelector (sel : Selector) (s : State) : State :=
  match sel with
  | .fmtsel w => placeFmtsel w s
  | .stepsel w => schedule .unpacker (placeStepsel w s)
  | .busx w => schedule (.host w) s

/-- Place a word of the opcode table; a word of no encoding space leaves the state as it is. -/
def placeTableWord (s : State) (nbits w : Nat) : State :=
  match tableSelector nbits w with
  | none => s
  | some sel => placeSelector sel s

end Sys2Proof.Machine
end

