-- ==== Sys2Proof/Machine/Step.lean ====
section
/-! DEFINITION. One step: the schedule's next turn is taken off, and its move is made, as one atomic step
(spec/00_scope.md rule R9, spec/20_memory.md rules R64 and R67). -/

namespace Sys2Proof.Machine

/-- One atomic step of one agent. -/
def step (s : State) : Host.Outcome State Fault Refusal :=
  match nextMove s with
  | .instr i => exec i (afterTurn s)
  | .fault f => .fault f
  | .other t => .next t

/-- The state with one word of spec/opcode_table.json placed so that the very next step runs it. -/
def State.withFetchWord (s : State) (nbits w : Nat) : State := placeTableWord s nbits w

end Sys2Proof.Machine
end

