-- ==== Sys2Proof/Machine/HostDriver.lean ====
section
/-! DEFINITION. HOST as the spec describes a correct one: the command notation of spec/30_encoding.md rules R92 and R93, and the
duties of spec/70_reset_and_hazards.md rules R188 to R192, as functions that give the turns HOST and SRC put on the schedule.
No step of the machine reads this file: HOST may issue any transactions (R9, R182; log entry 19). -/

namespace Sys2Proof.Machine

/-! ### Command notation (R92, R93) -/

/-- A host command; WAIT is host code that repeats RD STATUS, and is not one (R93). -/
inductive HostCmd where
  | rd (addr : CsrAddr)
  | wr (addr : CsrAddr) (value : Word)
  | pal (entry : Byte) (value : Word)
  | start (bits : Word)
  | srst (bits : Word)
  | clr
  | feed (bytes : List Byte)
deriving DecidableEq, Repr

/-- The turns a host command stands for (R93). -/
def expand : HostCmd → List Turn
  | .rd addr => [.host (busxOf false addr 0)]
  | .wr addr value => [.host (busxOf true addr value)]
  | .pal entry value => [.host (busxOf true (paletteAddr entry) value)]
  | .start bits => [.host (busxOf true 0x000 (bits ||| 0x00000001))]
  | .srst bits => [.host (busxOf true 0x000 (bits ||| 0x00000002))]
  | .clr => [.host (busxOf true 0x004 0x00010006)]
  | .feed bytes => bytes.map Turn.src

/-- The turns of a list of host commands, in program order (R67). -/
def expandAll (cmds : List HostCmd) : List Turn := cmds.flatMap expand

/-! ### Header duties (R66, R190, R191) -/

/-- A byte of the input buffer; HOST reads none at or past its end before checking its length (R190). -/
def bufByte (buf : List Byte) (k : Nat) : Byte := buf.getD k 0

/-- A little-endian u16 of the input buffer (R66). -/
def bufU16 (buf : List Byte) (k : Nat) : BitVec 16 := bufByte buf (k + 1) ++ bufByte buf k

/-- A little-endian u32 of the input buffer (R66). -/
def bufU32 (buf : List Byte) (k : Nat) : Word :=
  bytes32 (bufByte buf k) (bufByte buf (k + 1)) (bufByte buf (k + 2)) (bufByte buf (k + 3))

/-- The header fields HOST parses (R190). -/
structure Header where
  pixelOffset : Word
  headerLength : Word
  width : Word
  height : Word
  planes : BitVec 16
  bpp : BitVec 16
  compression : Word
  maskR : Word
  maskG : Word
  maskB : Word
  maskA : Word
deriving DecidableEq, Repr

/-- A mask field: the u32 at its offset if the header is longer than 40 bytes, else 0 (R191). -/
def headerMask (buf : List Byte) (headerLength : Word) (k : Nat) : Word :=
  if headerLength.toNat > 40 then bufU32 buf k else 0

/-- The header's fields at the offsets of R66 and R191. -/
def parseHeader (buf : List Byte) : Header :=
  let len := bufU32 buf 14
  { pixelOffset := bufU32 buf 10, headerLength := len, width := bufU32 buf 18, height := bufU32 buf 22,
    planes := bufU16 buf 26, bpp := bufU16 buf 28, compression := bufU32 buf 30,
    maskR := headerMask buf len 54, maskG := headerMask buf len 58, maskB := headerMask buf len 62,
    maskA := headerMask buf len 66 }

/-- The kinds of the source's error taxonomy (R164). -/
inductive HostError where
  | invalidImage
  | notEnoughSpace
  | notSupported
deriving DecidableEq, Repr

/-- The output bytes an image needs, abs(width) · abs(height) · 4 (R188, R190). -/
def outputSize (h : Header) : Nat := magnitude h.width * magnitude h.height * 4

/-- Where the palette begins, 14 + headerLength (R192). -/
def paletteStart (h : Header) : Nat := 14 + h.headerLength.toNat

/-- The format START will choose for the image (R96). -/
def headerFmt (h : Header) : FmtCode := fmtOf h.compression h.bpp

/-- The image is IDX4 or IDX8, so it has a palette to load (R188 step 4, R192): COMPRESSION 0 with BPP 4 or 8 (R75). -/
def isIndexed (h : Header) : Bool := headerFmt h == Fmt.idx4 || headerFmt h == Fmt.idx8

/-- Check 3 of R168: the plane count is 1, and the bit depth and the compression code are each among those the source knows.
Whether the two make a pair is not asked here: START refuses a pair outside the table (R164, R190 step 3). -/
def headerSupported (h : Header) : Bool :=
  h.planes == 1 && (h.bpp == 4 || h.bpp == 8 || h.bpp == 24 || h.bpp == 32) && (h.compression == 0 || h.compression == 3)

/-- The file's palette entry count n (R192 step 1). -/
def paletteCount (h : Header) : Nat :=
  if h.pixelOffset.toNat > paletteStart h then
    min (2 ^ h.bpp.toNat) ((h.pixelOffset.toNat - paletteStart h) / 4)
  else 0

/-- The palette word of entry i: the file's for i < n, else 0 (R192 steps 3 and 4). -/
def paletteWord (buf : List Byte) (h : Header) (i : Nat) : Word :=
  if i < paletteCount h then bufU32 buf (paletteStart h + 4 * i) else 0

/-- HOST's checks before it programs the block: the three of R168 in its order (R190), then the palette check of R192 step 2,
for an indexed image only. -/
def hostChecks (buf : List Byte) (outputLength : Nat) : Except HostError Header :=
  let h := parseHeader buf
  if buf.length < 54 ∨ bufByte buf 0 ≠ 0x42 ∨ bufByte buf 1 ≠ 0x4D then .error .invalidImage
  else if outputLength < outputSize h then .error .notEnoughSpace
  else if headerSupported h = false then .error .notSupported
  else if isIndexed h ∧ paletteStart h + 4 * paletteCount h > buf.length then .error .invalidImage
  else .ok h

/-- SRC_AVAIL: inputLength − pixelDataOffset, or 0 (R55, R190 step 6). -/
def sourceAvailable (buf : List Byte) (h : Header) : Word :=
  if h.pixelOffset.toNat ≤ buf.length then BitVec.ofNat 32 (buf.length - h.pixelOffset.toNat) else 0

/-- The configuration writes (R188 step 3). -/
def configCmds (buf : List Byte) (h : Header) : List HostCmd :=
  [.wr 0x008 (h.bpp.setWidth 32), .wr 0x00C h.compression, .wr 0x010 h.width, .wr 0x014 h.height, .wr 0x018 h.maskR,
    .wr 0x01C h.maskG, .wr 0x020 h.maskB, .wr 0x024 h.maskA, .wr 0x028 (sourceAvailable buf h)]

/-- The palette writes of the first `n` entries, in rising order (R192 steps 3 and 4). -/
def paletteCmdsUpTo (buf : List Byte) (h : Header) (n : Nat) : List HostCmd :=
  (List.range n).map fun i => .pal (BitVec.ofNat 8 i) (paletteWord buf h i)

/-- The palette writes: all 2^BPP entries of an indexed image, none of another (R188 step 4, R192). -/
def paletteCmds (buf : List Byte) (h : Header) : List HostCmd :=
  if isIndexed h then paletteCmdsUpTo buf h (2 ^ h.bpp.toNat) else []

/-- The commands that decode one image, from the configuration to the pixel stream (R188 steps 3, 4, 5 and 7); `bits` is
HOST's choice of ALPHA32_PASS, OUT_ORDER and IRQ_EN. -/
def imageCmds (buf : List Byte) (h : Header) (bits : Word) : List HostCmd :=
  configCmds buf h ++ paletteCmds buf h ++ [.start bits, .feed (buf.drop h.pixelOffset.toNat)]

/-- SRC rewound to the image's first pixel-data byte (R158, R195): what it offered and the block has not taken is flushed, and
the pixel data is offered again. A flush on its own (R196) is the first of these turns (DESIGN CHOICE, log entry 22). -/
def rewindTurns (buf : List Byte) (h : Header) : List Turn :=
  .srcFlush :: expand (.feed (buf.drop h.pixelOffset.toNat))

end Sys2Proof.Machine
end

