-- ==== Sys2Proof/WellFormed.lean ====
section
/-! DEFINITION. Which instructions some word of spec/opcode_table.json encodes: an instruction of a low-priority row, or of a
row that fixes bits of an operand, is well formed when no other row claims its word. -/

namespace Sys2Proof

/-- The five (compression, bits-per-pixel) pairs of R75. -/
def isFormatPair (compression : Word) (bpp : BitVec 16) : Bool :=
  (compression == 0 && (bpp == 4 || bpp == 8 || bpp == 24 || bpp == 32)) || (compression == 3 && bpp == 32)

/-- The address lies in the palette window and is word-aligned: ADDR[11:10] = 01 and ADDR[1:0] = 00 (R51, R81). -/
def inPaletteWindow (a : CsrAddr) : Bool :=
  a.extractLsb' 10 2 == 1#2 && a.extractLsb' 0 2 == 0#2

/-- Some write row above WR_UNMAPPED claims the address: the CSRs of R20 and the palette window. -/
def isMappedAddr (a : CsrAddr) : Bool :=
  a == 0x000 || a == 0x004 || a == 0x008 || a == 0x00C || a == 0x010 || a == 0x014 || a == 0x018 || a == 0x01C ||
  a == 0x020 || a == 0x024 || a == 0x028 || a == 0x02C || a == 0x030 || a == 0x03C || inPaletteWindow a

/-- The operands are such as the instruction's row of R75, R79 or R81 admits. -/
def Instr.wf : Instr → Bool
  | .fmtIdx4 => true
  | .fmtIdx8 => true
  | .fmtRgb24 => true
  | .fmtRgb32 => true
  | .fmtBf32 => true
  | .fmtNone compression bpp => !isFormatPair compression bpp
  | .idle _ _ _ => true
  | .inByte _ _ => true
  | .emitIdx4Hi => true
  | .emitIdx4Lo => true
  | .emitIdx8 => true
  | .emitRgb24 => true
  | .emitRgb32 => true
  | .emitBf32 => true
  | .padSkip _ _ _ => true
  | .rd _ _ => true
  | .wrCtrlSrst data => data.getLsbD 1
  | .wrCtrlStart data => !data.getLsbD 1 && data.getLsbD 0
  | .wrCtrl data => !data.getLsbD 1 && !data.getLsbD 0
  | .wrStatus _ => true
  | .wrBpp _ => true
  | .wrCompression _ => true
  | .wrWidth _ => true
  | .wrHeight _ => true
  | .wrMaskR _ => true
  | .wrMaskG _ => true
  | .wrMaskB _ => true
  | .wrMaskA _ => true
  | .wrSrcAvail _ => true
  | .wrPal _ _ => true
  | .wrRoRow _ => true
  | .wrRoCol _ => true
  | .wrRoId _ => true
  | .wrUnmapped addr _ => !isMappedAddr addr

end Sys2Proof
end

