-- ==== Sys2Proof/Safety.lean ====
section
/-! DEFINITION. The terms statements are made in: the invariant of spec/10_state.md rule R47, which instructions belong to
which shape, what a run has still to do, and the image that a run is to emit, written as one function of its bytes. -/

namespace Sys2Proof.Machine

/-! ### Shapes of instructions -/

/-- The format code of a FMTSEL row other than FMT_NONE (R75). -/
def formatRow : Instr → Option FmtCode
  | .fmtIdx4 => some Fmt.idx4
  | .fmtIdx8 => some Fmt.idx8
  | .fmtRgb24 => some Fmt.rgb24
  | .fmtRgb32 => some Fmt.rgb32
  | .fmtBf32 => some Fmt.bf32
  | _ => none

/-- The six EMIT steps (R79). -/
def isEmit : Instr → Bool
  | .emitIdx4Hi => true
  | .emitIdx4Lo => true
  | .emitIdx8 => true
  | .emitRgb24 => true
  | .emitRgb32 => true
  | .emitBf32 => true
  | _ => false

/-- The steps of UNPACKER that take an input byte. -/
def takesByte : Instr → Bool
  | .inByte _ _ => true
  | .padSkip _ _ _ => true
  | _ => false

/-- The rows of STEPSEL (R79). -/
def isStepRow (i : Instr) : Bool :=
  isEmit i || takesByte i || match i with
    | .idle _ _ _ => true
    | _ => false

/-- The bus write of a configuration register, with what it stores in an idle block (R149). -/
def configWrite : Instr → Option (CfgRegs → CfgRegs)
  | .wrBpp data => some fun c => { c with bpp := data.extractLsb' 0 16 }
  | .wrCompression data => some fun c => { c with compression := data }
  | .wrWidth data => some fun c => { c with width := data }
  | .wrHeight data => some fun c => { c with height := data }
  | .wrMaskR data => some fun c => { c with maskR := data }
  | .wrMaskG data => some fun c => { c with maskG := data }
  | .wrMaskB data => some fun c => { c with maskB := data }
  | .wrMaskA data => some fun c => { c with maskA := data }
  | .wrSrcAvail data => some fun c => { c with srcAvail := data }
  | _ => none

/-- The channels of a palette entry (R113): bits [23:16], [15:8], [7:0], alpha 0xFF. -/
def entryPixel (e : Word) : Pixel :=
  { a := 0xFF, r := e.extractLsb' 16 8, g := e.extractLsb' 8 8, b := e.extractLsb' 0 8 }

/-- The channels an EMIT step computes, as R114 to R118 and R121 say them, in a given state. -/
def emitPixel (s : State) : Instr → Option Pixel
  | .emitIdx4Hi => some (entryPixel (s.pal.read (BitVec.ofNat 8 (s.run.acc[0].toNat / 16))))
  | .emitIdx4Lo => some (entryPixel (s.pal.read (BitVec.ofNat 8 (s.run.nib.toNat % 16))))
  | .emitIdx8 => some (entryPixel (s.pal.read s.run.acc[0]))
  | .emitRgb24 => some { a := 0xFF, r := s.run.acc[2], g := s.run.acc[1], b := s.run.acc[0] }
  | .emitRgb32 =>
    some { a := if s.ctrl.alpha32Pass then s.run.acc[3] else 0xFF, r := s.run.acc[2], g := s.run.acc[1], b := s.run.acc[0] }
  | .emitBf32 =>
    let word : Word := s.run.acc[3] ++ s.run.acc[2] ++ s.run.acc[1] ++ s.run.acc[0]
    some { a := chan word s.cfg.maskA, r := chan word s.cfg.maskR, g := chan word s.cfg.maskG, b := chan word s.cfg.maskB }
  | _ => none

/-- The nibble state an EMIT step leaves when the row goes on (R114, R115): a high-nibble pixel keeps its byte. -/
def emitNibble (r : Run) : Instr → Run
  | .emitIdx4Hi => { r with nib := r.acc[0], nibph := true }
  | .emitIdx4Lo => { r with nibph := false }
  | _ => r

/-- The turn of the next step. -/
def turnOf (s : State) : Turn := (nextTurn s.env.sched).1

/-- The next step is HOST's write of CTRL with DATA[1] = 0 and DATA[0] = 1 (R95). -/
def isStartTurn : Turn → Bool
  | .host w => match decodeBusx w with
    | .wrCtrlStart _ => true
    | _ => false
  | _ => false

/-- The next step is a soft reset (R157). -/
def isSoftResetTurn : Turn → Bool
  | .host w => match decodeBusx w with
    | .wrCtrlSrst _ => true
    | _ => false
  | _ => false

/-! ### The invariant -/

/-- What R47 says of every reachable state, with the clauses it needs to be kept by every step: the flags of R24 and R91, the
palette's canonical form, and, of a run in progress, that a row in padding is a row of at least one pixel with an empty
assembly buffer, and that the nibble phase of IDX4 is the parity of the column (R82, R136). -/
structure Inv (s : State) : Prop where
  /-- R47 item 1. -/
  busy_status : s.run.fsm ≠ .idle → s.status.fmt ≠ Fmt.none ∧ s.status.done = false ∧ s.status.error = false ∧ s.status.errcode = 0
  /-- R24, R91: format codes 6 and 7 are never produced. -/
  fmt_code : s.status.fmt.toNat ≤ 5
  /-- R47 item 2. -/
  pix : s.run.fsm = .pix → s.run.accN ≤ need s.status.fmt s.run.nibph ∧ s.run.col.toNat < imageW s ∧ s.run.row.toNat < imageH s
  /-- R47 item 3. -/
  pad : s.run.fsm = .pad → 1 ≤ s.run.padLeft.toNat ∧ s.run.col.toNat = imageW s ∧ s.run.row.toNat < imageH s
  pad_row : s.run.fsm = .pad → 0 < imageW s ∧ s.run.accN = 0
  /-- R47 item 4. -/
  nibph : s.run.nibph = true → s.status.fmt = Fmt.idx4 ∧ s.run.fsm = .pix
  parity : s.run.fsm = .pix → s.status.fmt = Fmt.idx4 → (s.run.nibph = true ↔ s.run.col.toNat % 2 = 1)
  /-- R47 item 5, with ERRCODE 3 never produced (R163). -/
  errcode : (s.status.error = true ↔ s.status.errcode ≠ 0) ∧ s.status.errcode ≠ 3
  /-- R24: at most one of DONE and ERROR. -/
  exclusive : ¬(s.status.done = true ∧ s.status.error = true)
  palette : Memory.wf s.pal.mem = true

/-! ### What a run has still to do -/

/-- UNPACKER's next step waits for SRC or for SINK (R194). -/
def stalled (s : State) : Bool :=
  (inReady s && s.env.inQ.isEmpty) || (outValid s && !s.env.sinkReady)

/-- The steps a run has still to take (R199): of the row in progress its beats, its bytes not yet taken (rowBytes of the columns
done have been, and S.accN of the current pixel) and its padding; of each later row its stride and its W beats. -/
def remaining (s : State) : Nat :=
  let w := imageW s
  let fmt := s.status.fmt
  let later := (imageH s - (s.run.row.toNat + 1)) * (stride fmt w + w)
  match s.run.fsm with
  | .idle => 0
  | .pix => (w - s.run.col.toNat) + (rowBytes fmt w - (rowBytes fmt s.run.col.toNat + s.run.accN.val)) + padBytes fmt w + later
  | .pad => s.run.padLeft.toNat + later

/-! ### The image a run emits -/

/-- Byte k of the pixel data; a run that passes START has all it reads (R126). -/
def dataByte (bytes : List Byte) (k : Nat) : Byte := bytes.getD k 0

/-- The channels of the pixel in stored row `row`, column `col`, from the pixel data (R56, R113 to R121): `s` gives the format,
the dimensions, the palette, the masks and ALPHA32_PASS, and stored rows begin at multiples of the stride (R61). -/
def pixelAt (s : State) (bytes : List Byte) (row col : Nat) : Pixel :=
  let at' (k : Nat) : Byte := dataByte bytes (row * stride s.status.fmt (imageW s) + k)
  if s.status.fmt = Fmt.idx4 then
    palPix s (if col % 2 = 0 then hiNibble (at' (col / 2)) else loNibble (at' (col / 2)))
  else if s.status.fmt = Fmt.idx8 then palPix s (at' col)
  else if s.status.fmt = Fmt.rgb24 then
    { a := 0xFF, r := at' (3 * col + 2), g := at' (3 * col + 1), b := at' (3 * col) }
  else if s.status.fmt = Fmt.rgb32 then
    { a := if s.ctrl.alpha32Pass then at' (4 * col + 3) else 0xFF,
      r := at' (4 * col + 2), g := at' (4 * col + 1), b := at' (4 * col) }
  else
    let word := bytes32 (at' (4 * col)) (at' (4 * col + 1)) (at' (4 * col + 2)) (at' (4 * col + 3))
    { a := chan word s.cfg.maskA, r := chan word s.cfg.maskR, g := chan word s.cfg.maskG, b := chan word s.cfg.maskB }

/-- Beat n of a run: stored row n div W, column n mod W, its channels packed in output order, with its row and run end flags
(R135, R88, R134). -/
def imageBeat (s : State) (bytes : List Byte) (n : Nat) : Beat :=
  let w := imageW s
  { data := pack (pixelAt s bytes (n / w) (n % w)) s.ctrl.outOrder,
    eol := decide ((n + 1) % w = 0), eof := decide (n + 1 = w * imageH s) }

/-- The beats of an image, in order: W·H of them (R134, R135). -/
def imageBeats (s : State) (bytes : List Byte) : List Beat :=
  (List.range (imageW s * imageH s)).map (imageBeat s bytes)

/-- The pixel bytes the image in the registers needs, in the format chosen at START (R98). -/
def requiredNow (s : State) : Nat := required s.status.fmt (imageW s) (imageH s)

end Sys2Proof.Machine
end

