-- ==== Sys2Proof/Certificates/Slice0/Obligations.lean ====
section
/-! DEFINITION. The statements for the provers. Each names the rule of spec/ it formalises; a statement that rests on a choice
of the model names the log entry. Unless it says so, a statement holds in every state, reachable or not. -/

open Sys2Proof Sys2Proof.Machine

/-! ### Reset -/

/-- R46: every piece of state at its reset value, and what the registers and signals then read as; the palette reads as
PAL_INIT of the draw that stands. -/
def Obligations.ResetLeavesTheStatedValues : Prop :=
  readValue State.reset 0x000 = 0 ∧ readValue State.reset 0x004 = 0 ∧
  State.reset.status = { done := false, error := false, errcode := 0, fmt := 0, ignwr := false } ∧
  State.reset.cfg =
    { bpp := 0, compression := 0, width := 0, height := 0, maskR := 0, maskG := 0, maskB := 0, maskA := 0, srcAvail := 0 } ∧
  readValue State.reset 0x03C = 0x455A0100 ∧
  State.reset.run =
    { fsm := .idle, row := 0, col := 0, acc := #v[0, 0, 0, 0], accN := 0, nib := 0, nibph := false, padLeft := 0 } ∧
  inReady State.reset = false ∧ outValid State.reset = false ∧ irq State.reset = false ∧
  ∀ e : Byte, State.reset.pal.read e = Config.palInit State.reset.pal.draw e

/-- R183, R185: `rst` sets every piece of the block's state to R46's value and draws the palette afresh; beats accepted stay
accepted. That SRC's bytes, SINK's readiness and the schedule stay too is the model's choice (log entry 13). -/
def Obligations.RstTurnResetsTheBlock : Prop :=
  ∀ (s : State) (rest : List Turn), s.env.sched = .rst :: rest →
    ∃ t, step s = .next t ∧ t.ctrl = { alpha32Pass := false, outOrder := false, irqEn := false } ∧
      t.status = { done := false, error := false, errcode := 0, fmt := 0, ignwr := false } ∧
      t.cfg = { bpp := 0, compression := 0, width := 0, height := 0, maskR := 0, maskG := 0, maskB := 0, maskA := 0,
                srcAvail := 0 } ∧
      t.run = { fsm := .idle, row := 0, col := 0, acc := #v[0, 0, 0, 0], accN := 0, nib := 0, nibph := false, padLeft := 0 } ∧
      t.pal.draw ≠ s.pal.draw ∧ (∀ e : Byte, t.pal.read e = Config.palInit t.pal.draw e) ∧
      t.env = { s.env with sched := rest }

/-! ### The invariant -/

/-- The invariant holds right after reset. -/
def Obligations.ResetMeetsTheInvariant : Prop := Inv State.reset

/-- R47: every step of every agent keeps the invariant, from every state that meets it. -/
def Obligations.EveryStepKeepsTheInvariant : Prop :=
  ∀ s t : State, Inv s → step s = .next t → Inv t

/-- R182, R144, R166: in a state that meets the invariant the machine never stops, whoever moves; that a turn of UNPACKER with no
step enabled answers a next state is log entry 7 (DEDUCED). -/
def Obligations.InvariantStatesNeverStop : Prop :=
  ∀ s : State, Inv s → ∃ t, step s = .next t

/-! ### Decoding -/

/-- Decoding the encoded word of a well-formed instruction gives the instruction, every operand at every value. -/
def Obligations.DecodeOfEncodeIsTheInstruction : Prop :=
  ∀ i : Instr, i.wf = true → decode (encode i) = .ok i

/-- Every word of the three encoding spaces that decodes at all is the encoding of what it decodes to, which is well formed. -/
def Obligations.EncodeOfDecodeIsTheWord : Prop :=
  ∀ (w : Selector) (i : Instr), decode w = .ok i → i.wf = true ∧ encode i = w

/-- Words written out in spec/95_test_vectors.md section 7, and one more of each family, decode as given there. -/
def Obligations.WordsOfTheSpecDecode : Prop :=
  decode (.fmtsel 0x000000000004) = .ok .fmtIdx4 ∧ decode (.fmtsel 0x000000030020) = .ok .fmtBf32 ∧
  decode (.fmtsel 0x000000030018) = .ok (.fmtNone 3 24) ∧ decode (.fmtsel 0x000000010008) = .ok (.fmtNone 1 8) ∧
  decode (.stepsel 0b0010110) = .ok (.inByte 3 false) ∧ decode (.stepsel 0b1010011) = .ok .emitIdx4Lo ∧
  decode (.stepsel 0b1011010) = .ok .emitBf32 ∧ decode (.stepsel 0b1101000) = .ok (.padSkip true 4 false) ∧
  decode (.stepsel 0b1011100) = .error .unreachableStepSelector ∧
  decode (.busx 0x1000_0000_0003) = .ok (.wrCtrlSrst 3) ∧ decode (.busx 0x1000_0000_0001) = .ok (.wrCtrlStart 1) ∧
  decode (.busx 0x17FC_0000_0000) = .ok (.wrPal 255 0) ∧ decode (.busx 0x13FC_0000_0000) = .ok (.wrUnmapped 0x3FC 0) ∧
  decode (.busx 0x07FD_0000_0000) = .ok (.rd 0x7FD 0)

/-- R96: the dispatch function's five pairs, NONE for every other pair, and that the format selector's table (R75) agrees with it
on every pair. -/
def Obligations.FormatDispatchAgreesWithTheTable : Prop :=
  (fmtOf 0 4 = Fmt.idx4 ∧ fmtOf 0 8 = Fmt.idx8 ∧ fmtOf 0 24 = Fmt.rgb24 ∧ fmtOf 0 32 = Fmt.rgb32 ∧ fmtOf 3 32 = Fmt.bf32) ∧
  ∀ (c : Word) (b : BitVec 16),
    (∀ f, formatRow (decodeFmtsel (fmtselOf c b)) = some f → fmtOf c b = f) ∧
    (formatRow (decodeFmtsel (fmtselOf c b)) = none → fmtOf c b = Fmt.none ∧ decodeFmtsel (fmtselOf c b) = .fmtNone c b) ∧
    (fmtOf c b ≠ Fmt.none ↔ (c = 0 ∧ (b = 4 ∨ b = 8 ∨ b = 24 ∨ b = 32)) ∨ (c = 3 ∧ b = 32))

/-! ### The step -/

/-- A HOST turn runs the instruction its transaction decodes to, an UNPACKER turn the one the step selector decodes to; both
move past the turn. That UNPACKER moves once the schedule is empty is the model's choice (log entry 1). -/
def Obligations.StepRunsTheDecodedInstruction : Prop :=
  ∀ (s : State) (rest : List Turn) (i : Instr),
    (∀ w, s.env.sched = .host w :: rest → decode (.busx w) = .ok i → step s = exec i { s with env.sched := rest }) ∧
    (s.env.sched = .unpacker :: rest → decode (.stepsel (stepsel s)) = .ok i → step s = exec i { s with env.sched := rest }) ∧
    (s.env.sched = [] → decode (.stepsel (stepsel s)) = .ok i → step s = exec i s)

/-- R9: a turn of SRC offers one byte. That SINK's readiness, which R9 leaves to the schedule, is a bit that SINK's turns set is
the model's choice (log entry 2), and so is that a flush of SRC (R195, R196) is a turn that withdraws every byte offered and not
taken (log entry 22). Nothing else changes in any of them. -/
def Obligations.SrcAndSinkTurnsTouchOnlyTheirStream : Prop :=
  ∀ (s : State) (rest : List Turn),
    (∀ b, s.env.sched = .src b :: rest → step s = .next { s with env.sched := rest, env.inQ := s.env.inQ ++ [b] }) ∧
    (s.env.sched = .srcFlush :: rest → step s = .next { s with env.sched := rest, env.inQ := [] }) ∧
    (∀ r, s.env.sched = .sink r :: rest → step s = .next { s with env.sched := rest, env.sinkReady := r })

/-- UNPACKER's turn faults by name exactly on a full pixel whose format and nibble phase no EMIT row names. R79 and T-DEC-13 call
such a selector unreachable; that the model's step is then this fault is log entry 8 (DEDUCED). The statement rests on log entry 6
too (DESIGN CHOICE): need is 0 for FMT NONE, 6 and 7 and does not look at S.nibph outside IDX4, where R110 gives no value. -/
def Obligations.UnreachableSelectorFaults : Prop :=
  ∀ s : State, turnOf s = .unpacker →
    (step s = .fault .unreachableStepSelector ↔
      s.run.fsm = .pix ∧ s.run.accN = need s.status.fmt s.run.nibph ∧ s.status.fmt ≠ Fmt.idx4 ∧
        (s.run.nibph = true ∨ s.status.fmt = Fmt.none ∨ 6 ≤ s.status.fmt.toNat))

/-- The IDLE row enables no step (R79); that exec of it then answers the same state is log entry 7 (DEDUCED). -/
def Obligations.IdleRowChangesNothing : Prop :=
  ∀ (full nibph : Bool) (fmt : FmtCode) (s : State), exec (.idle full fmt nibph) s = .next s

/-! ### START -/

/-- R95, R99: START in an idle block stores the CTRL fields and then, in the same step, runs the row that the format selector
decodes to; it always completes. -/
def Obligations.StartRunsTheFormatRow : Prop :=
  ∀ (d : Word) (s : State), (Instr.wrCtrlStart d).wf = true → s.run.fsm = .idle →
    ∃ t, exec (.wrCtrlStart d) s = .next t ∧
      exec (decodeFmtsel (fmtselOf s.cfg.compression s.cfg.bpp))
        { s with ctrl := { alpha32Pass := d.getLsbD 4, outOrder := d.getLsbD 5, irqEn := d.getLsbD 8 } } = .next t

/-- R100: NotSupported sets ERROR, ERRCODE 1 and FMT 0, clears DONE, and changes nothing else. -/
def Obligations.NotSupportedOutcome : Prop :=
  ∀ (c : Word) (b : BitVec 16) (s : State), exec (.fmtNone c b) s =
    .next { s with status := { done := false, error := true, errcode := 1, fmt := 0, ignwr := s.status.ignwr } }

/-- R101: with req > SRC_AVAIL, InvalidImage sets ERROR and ERRCODE 2, keeps the decoded format, and changes nothing else. -/
def Obligations.InvalidImageOutcome : Prop :=
  ∀ (i : Instr) (f : FmtCode) (s : State), formatRow i = some f →
    required f (imageW s) (imageH s) > s.cfg.srcAvail.toNat →
    exec i s = .next { s with status := { done := false, error := true, errcode := 2, fmt := f, ignwr := s.status.ignwr } }

/-- R102: an empty image needs no byte, so it passes the bounds check and is DONE at once, with ROW and COL 0; fsm, acc, nib and
the streams are not touched. -/
def Obligations.EmptyImageOutcome : Prop :=
  ∀ (i : Instr) (f : FmtCode) (s : State), formatRow i = some f → (imageW s = 0 ∨ imageH s = 0) →
    required f (imageW s) (imageH s) = 0 ∧ exec i s = .next
      { s with
        status := { done := true, error := false, errcode := 0, fmt := f, ignwr := s.status.ignwr },
        run := { s.run with row := 0, col := 0, accN := 0, nibph := false, padLeft := 0 } }

/-- R103: a START whose checks pass on an image of at least one pixel begins a run in PIX at row 0, column 0. -/
def Obligations.RunStartOutcome : Prop :=
  ∀ (i : Instr) (f : FmtCode) (s : State), formatRow i = some f →
    required f (imageW s) (imageH s) ≤ s.cfg.srcAvail.toNat → 1 ≤ imageW s → 1 ≤ imageH s →
    exec i s = .next
      { s with
        status := { done := false, error := false, errcode := 0, fmt := f, ignwr := s.status.ignwr },
        run := { s.run with fsm := .pix, row := 0, col := 0, accN := 0, nibph := false, padLeft := 0 } }

/-- R104: START while busy runs no check: it sets IGNWR, its IRQ_EN takes effect, and the run continues unchanged. -/
def Obligations.StartWhileBusyIsIgnored : Prop :=
  ∀ (d : Word) (s : State), (Instr.wrCtrlStart d).wf = true → s.run.fsm ≠ .idle →
    exec (.wrCtrlStart d) s = .next { s with ctrl.irqEn := d.getLsbD 8, status.ignwr := true }

/-- R109: the START check does not depend on ALPHA32_PASS, OUT_ORDER, the masks or the palette. -/
def Obligations.StartIgnoresBeatSettings : Prop :=
  ∀ (i : Instr) (s : State) (c : Ctrl) (p : Palette) (mr mg mb ma : Word), ((formatRow i).isSome ∨ ∃ x y, i = .fmtNone x y) →
    ∃ t t', exec i s = .next t ∧
      exec i { s with ctrl := c, pal := p, cfg.maskR := mr, cfg.maskG := mg, cfg.maskB := mb, cfg.maskA := ma } = .next t' ∧
      t'.status = t.status ∧ t'.run = t.run

/-- R167: a START check that ended in an error ends in the same error, changing nothing more, when run again on the registers
it left. -/
def Obligations.FailedStartRepeats : Prop :=
  ∀ (i : Instr) (s t : State), ((formatRow i).isSome ∨ ∃ x y, i = .fmtNone x y) → exec i s = .next t →
    t.status.error = true → exec i t = .next t

/-- Frame of the FMTSEL rows: CTRL, the configuration, every byte of the palette, both streams, IGNWR, S.acc and S.nib stay. -/
def Obligations.FrameOfTheFormatRows : Prop :=
  ∀ (i : Instr) (s t : State), ((formatRow i).isSome ∨ ∃ x y, i = .fmtNone x y) → exec i s = .next t →
    t.ctrl = s.ctrl ∧ t.cfg = s.cfg ∧ t.env = s.env ∧ t.status.ignwr = s.status.ignwr ∧ t.run.acc = s.run.acc ∧
    t.run.nib = s.run.nib ∧ ∀ a, t.pal.readByte a = s.pal.readByte a

/-! ### The steps of UNPACKER -/

/-- R111: IN_BYTE takes the head byte into S.acc[S.accN] and counts it; nothing else changes. -/
def Obligations.InByteTakesTheHeadByte : Prop :=
  ∀ (f : FmtCode) (n : Bool) (s : State) (b : Byte) (rest : List Byte), s.env.inQ = b :: rest → s.run.accN.val < 4 →
    ∃ t, exec (.inByte f n) s = .next t ∧ t.run.accN.val = s.run.accN.val + 1 ∧
      (∀ (k : Nat) (hk : k < 4), t.run.acc[k] = if k = s.run.accN.val then b else s.run.acc[k]) ∧
      t = { s with env.inQ := rest, run.acc := t.run.acc, run.accN := t.run.accN }

/-- R112, R138, with R113 to R118 and R121 for the channels: with SINK ready an EMIT step completes, handing over one beat whose
bytes are the pixel's channels in the order CTRL.OUT_ORDER selects, and whose flags say the ends of the row and of the run. -/
def Obligations.EmitHandsOverItsBeat : Prop :=
  ∀ (i : Instr) (s : State) (p : Pixel), emitPixel s i = some p → s.env.sinkReady = true →
    ∃ t beat, exec i s = .next t ∧ t.env = { s.env with outQ := s.env.outQ ++ [beat] } ∧
      byteOf 0 beat.data = (if s.ctrl.outOrder then p.r else p.a) ∧
      byteOf 1 beat.data = (if s.ctrl.outOrder then p.g else p.r) ∧
      byteOf 2 beat.data = (if s.ctrl.outOrder then p.b else p.g) ∧
      byteOf 3 beat.data = (if s.ctrl.outOrder then p.a else p.b) ∧
      beat.eol = decide (s.run.col.toNat + 1 = imageW s) ∧
      beat.eof = decide (s.run.col.toNat + 1 = imageW s ∧ s.run.row.toNat + 1 = imageH s)

/-- R130, R132, R133: with SINK ready an EMIT step completes and advances the position: within the row; at its last pixel into
padding; without padding to the next row, or after the last row to IDLE with DONE. S.nib keeps a high-nibble byte (R114). -/
def Obligations.EmitAdvancesThePosition : Prop :=
  ∀ (i : Instr) (s : State), isEmit i = true → s.env.sinkReady = true →
    ∃ t, exec i s = .next t ∧
      t.run =
        (if s.run.col.toNat + 1 ≠ imageW s then { emitNibble s.run i with accN := 0, col := s.run.col + 1 }
        else if padBytes s.status.fmt (imageW s) ≠ 0 then
          { emitNibble s.run i with
            accN := 0, nibph := false, col := BitVec.ofNat 32 (imageW s), fsm := .pad,
            padLeft := BitVec.ofNat 2 (padBytes s.status.fmt (imageW s)) }
        else
          { emitNibble s.run i with
            accN := 0, nibph := false, col := 0, padLeft := 0, row := s.run.row + 1,
            fsm := if (s.run.row + 1).toNat = imageH s then .idle else .pix }) ∧
      t.status =
        (if s.run.col.toNat + 1 = imageW s ∧ padBytes s.status.fmt (imageW s) = 0 ∧ (s.run.row + 1).toNat = imageH s then
          { s.status with done := true }
        else s.status)

/-- R131, R132, R133: PAD_SKIP discards one byte; the last padding byte ends the row, and that of the last row ends the run. -/
def Obligations.PadSkipDiscardsOneByte : Prop :=
  ∀ (u n : Bool) (f : FmtCode) (s : State) (b : Byte) (rest : List Byte), s.env.inQ = b :: rest →
    exec (.padSkip u f n) s = .next
      (if s.run.padLeft ≠ 1 then { s with env.inQ := rest, run.padLeft := s.run.padLeft - 1 }
      else if (s.run.row + 1).toNat ≠ imageH s then
        { s with env.inQ := rest, run.padLeft := 0, run.row := s.run.row + 1, run.col := 0, run.fsm := .pix }
      else
        { s with
          env.inQ := rest, run.padLeft := 0, run.row := s.run.row + 1, run.col := 0, run.fsm := .idle,
          status.done := true })

/-- Where UNPACKER waits for SRC or for SINK (R194), no step of it is enabled (R15). That the model's turn of a waiting UNPACKER
then answers the same state, with the turn taken off the schedule, is log entry 7 (DEDUCED). -/
def Obligations.StalledTurnChangesNothing : Prop :=
  ∀ s : State, Inv s → turnOf s = .unpacker → stalled s = true → step s = .next (afterTurn s)

/-- R124, R45: frame of the STEPSEL rows: CTRL, the configuration, every byte of the palette and every STATUS flag but DONE stay,
and DONE is never cleared; of the other agents only the two streams change. -/
def Obligations.FrameOfTheStepRows : Prop :=
  ∀ (i : Instr) (s t : State), isStepRow i = true → exec i s = .next t →
    t.ctrl = s.ctrl ∧ t.cfg = s.cfg ∧ (∀ a, t.pal.readByte a = s.pal.readByte a) ∧
    (t.status = s.status ∨ t.status = { s.status with done := true }) ∧
    t.env = { s.env with inQ := t.env.inQ, outQ := t.env.outQ } ∧
    (isEmit i = true → t.env.inQ = s.env.inQ) ∧ (takesByte i = true → t.env.outQ = s.env.outQ)

/-! ### Values -/

/-- R119: the least-significant-set-bit helper: −1 for a zero mask, else the index of the lowest set bit. -/
def Obligations.LowestSetBitHelper : Prop :=
  lsb 0 = -1 ∧ ∀ m : Word, m ≠ 0 →
    ∃ k : Nat, k < 32 ∧ lsb m = k ∧ m.getLsbD k = true ∧ ∀ j, j < k → m.getLsbD j = false

/-- R120: a zero mask gives 0; otherwise the masked word shifted down to the mask's lowest set bit, mod 256. -/
def Obligations.BitfieldChannelValue : Prop :=
  (∀ w : Word, chan w 0 = 0) ∧
  ∀ (w m : Word) (k : Nat), m.getLsbD k = true → (∀ j, j < k → m.getLsbD j = false) →
    (chan w m).toNat = (w &&& m).toNat / 2 ^ k % 256

/-- R138: order 0 packs A, R, G, B from the lowest byte, order 1 packs R, G, B, A. -/
def Obligations.PackOrdersTheBytes : Prop :=
  ∀ a r g b : Byte, pack { a := a, r := r, g := g, b := b } false = b ++ g ++ r ++ a ∧
    pack { a := a, r := r, g := g, b := b } true = a ++ b ++ g ++ r

/-- R127, R128: the row bytes of each format; padding is at most 3 bytes and the stride is the row rounded up to a multiple
of 4; 32-bit rows have no padding. -/
def Obligations.LengthsOfStoredRows : Prop :=
  ∀ w : Nat,
    (rowBytes Fmt.idx4 w = (w + 1) / 2 ∧ rowBytes Fmt.idx8 w = w ∧ rowBytes Fmt.rgb24 w = 3 * w ∧
      rowBytes Fmt.rgb32 w = 4 * w ∧ rowBytes Fmt.bf32 w = 4 * w) ∧
    (padBytes Fmt.rgb32 w = 0 ∧ padBytes Fmt.bf32 w = 0) ∧
    ∀ f : FmtCode, padBytes f w = (4 - rowBytes f w % 4) % 4 ∧ padBytes f w ≤ 3 ∧ stride f w = rowBytes f w + padBytes f w ∧
      stride f w % 4 = 0 ∧ stride f w < rowBytes f w + 4

/-- R97: W and H are the magnitudes of the signed registers, exact for −2^31 too. -/
def Obligations.DimensionsAreMagnitudes : Prop :=
  ∀ s : State, imageW s = s.cfg.width.toInt.natAbs ∧ imageH s = s.cfg.height.toInt.natAbs ∧
    imageW s ≤ 2 ^ 31 ∧ imageH s ≤ 2 ^ 31 ∧ (s.cfg.width = 0x80000000 → imageW s = 2 ^ 31)

/-! ### Bus commands -/

/-- R145, R63: a bus read returns the value of its address, 0 for an unmapped or misaligned one, and has no side effect. -/
def Obligations.BusReadReturnsAndChangesNothing : Prop :=
  ∀ (a : CsrAddr) (d : Word) (s : State),
    exec (.rd a d) s = .next { s with env.rdLog := s.env.rdLog ++ [readValue s a] } ∧
    (isMappedAddr a = false → readValue s a = 0) ∧ (a.extractLsb' 0 2 ≠ 0 → readValue s a = 0)

/-- R146: the value each address reads as; a palette entry of which HOST has written no byte since the reset reads as PAL_INIT. -/
def Obligations.ReadValueOfEachAddress : Prop :=
  ∀ s : State,
    (readValue s 0x000).toNat =
      s.ctrl.irqEn.toNat * 2 ^ 8 + s.ctrl.outOrder.toNat * 2 ^ 5 + s.ctrl.alpha32Pass.toNat * 2 ^ 4 ∧
    (readValue s 0x004).toNat =
      s.status.ignwr.toNat * 2 ^ 16 + s.status.fmt.toNat * 2 ^ 8 + s.status.errcode.toNat * 2 ^ 4 +
        s.status.error.toNat * 2 ^ 2 + s.status.done.toNat * 2 + (if s.run.fsm = .idle then 0 else 1) ∧
    (readValue s 0x008).toNat = s.cfg.bpp.toNat ∧ readValue s 0x00C = s.cfg.compression ∧
    readValue s 0x010 = s.cfg.width ∧ readValue s 0x014 = s.cfg.height ∧ readValue s 0x018 = s.cfg.maskR ∧
    readValue s 0x01C = s.cfg.maskG ∧ readValue s 0x020 = s.cfg.maskB ∧ readValue s 0x024 = s.cfg.maskA ∧
    readValue s 0x028 = s.cfg.srcAvail ∧ readValue s 0x02C = s.run.row ∧ readValue s 0x030 = s.run.col ∧
    readValue s 0x03C = 0x455A0100 ∧
    (∀ e : Byte, readValue s (0x400 + 4 * e.setWidth 12) = s.pal.read e) ∧
    (∀ e : Byte, (∀ k, k < 4 → Memory.find (0x400 + 4 * e.toNat + k) s.pal.mem = none) →
      readValue s (0x400 + 4 * e.setWidth 12) = Config.palInit s.pal.draw e) ∧
    ∀ a : CsrAddr, isMappedAddr a = false → readValue s a = 0

/-- R147: a CTRL write with START = 0 in an idle block stores its three fields and changes nothing else. -/
def Obligations.CtrlWriteWhileIdle : Prop :=
  ∀ (d : Word) (s : State), (Instr.wrCtrl d).wf = true → s.run.fsm = .idle →
    exec (.wrCtrl d) s =
      .next { s with ctrl := { alpha32Pass := d.getLsbD 4, outOrder := d.getLsbD 5, irqEn := d.getLsbD 8 } }

/-- R147, R148: while busy a CTRL write with START = 0 stores IRQ_EN only, and sets IGNWR exactly if it would have changed
ALPHA32_PASS or OUT_ORDER. -/
def Obligations.CtrlWriteWhileBusy : Prop :=
  ∀ (d : Word) (s : State), (Instr.wrCtrl d).wf = true → s.run.fsm ≠ .idle →
    exec (.wrCtrl d) s = .next
      { s with
        ctrl.irqEn := d.getLsbD 8,
        status.ignwr :=
          if d.getLsbD 4 = s.ctrl.alpha32Pass ∧ d.getLsbD 5 = s.ctrl.outOrder then s.status.ignwr else true }

/-- R150: a STATUS write clears the flags whose bits it has set, ERRCODE with ERROR, and changes nothing else. -/
def Obligations.StatusWriteClearsOnes : Prop :=
  ∀ (d : Word) (s : State), exec (.wrStatus d) s = .next
    { s with
      status :=
        { done := if d.getLsbD 1 then false else s.status.done,
          error := if d.getLsbD 2 then false else s.status.error,
          errcode := if d.getLsbD 2 then 0 else s.status.errcode,
          fmt := s.status.fmt,
          ignwr := if d.getLsbD 16 then false else s.status.ignwr } }

/-- R149: in an idle block each of the nine configuration writes stores its register, BPP its low 16 bits, and nothing else
changes; while busy it changes nothing but set IGNWR. -/
def Obligations.ConfigWritesStoreOrAreIgnored : Prop :=
  ∀ (i : Instr) (store : CfgRegs → CfgRegs) (s : State), configWrite i = some store →
    exec i s = .next (if s.run.fsm = .idle then { s with cfg := store s.cfg } else { s with status.ignwr := true })

/-- R151, R148: in an idle block a palette write stores all 32 bits of the entry at 0x400 + 4·i, least significant byte first;
every byte outside those four, every other entry and all other state stay. While busy it changes nothing but set IGNWR. -/
def Obligations.PaletteWriteStoresOneEntry : Prop :=
  ∀ (e : Byte) (d : Word) (s : State),
    (s.run.fsm = .idle →
      ∃ t, exec (.wrPal e d) s = .next t ∧ t = { s with pal := t.pal } ∧ t.pal.draw = s.pal.draw ∧ t.pal.read e = d ∧
        (∀ k, k < 4 → t.pal.readByte (palByteAddr e + k) = byteOf k d) ∧
        (∀ a, (a < palByteAddr e ∨ palByteAddr e + 4 ≤ a) → t.pal.readByte a = s.pal.readByte a) ∧
        ∀ e', e' ≠ e → t.pal.read e' = s.pal.read e') ∧
    (s.run.fsm ≠ .idle → exec (.wrPal e d) s = .next { s with status.ignwr := true })

/-- R152, R153, R154: writes to ROW, COL, ID, unmapped and misaligned addresses change nothing, idle or busy. -/
def Obligations.IgnoredWritesChangeNothing : Prop :=
  ∀ (a : CsrAddr) (d : Word) (s : State), exec (.wrRoRow d) s = .next s ∧ exec (.wrRoCol d) s = .next s ∧
    exec (.wrRoId d) s = .next s ∧ exec (.wrUnmapped a d) s = .next s

/-- R157: a soft reset, idle or busy, clears the run state and STATUS and stores the CTRL fields; the configuration, the palette
and the streams stay. -/
def Obligations.SoftResetClearsTheRun : Prop :=
  ∀ (d : Word) (s : State), exec (.wrCtrlSrst d) s = .next
    { s with
      run := { fsm := .idle, row := 0, col := 0, acc := #v[0, 0, 0, 0], accN := 0, nib := 0, nibph := false, padLeft := 0 },
      status := { done := false, error := false, errcode := 0, fmt := 0, ignwr := false },
      ctrl := { alpha32Pass := d.getLsbD 4, outOrder := d.getLsbD 5, irqEn := d.getLsbD 8 } }

/-- R171, R173: `irq` is high exactly while IRQ_EN and DONE or ERROR are set; acknowledging both flags, a soft reset, and an
idle CTRL write with IRQ_EN = 0 lower it. -/
def Obligations.IrqFollowsPendingAndEnable : Prop :=
  ∀ s : State,
    (irq s = true ↔ s.ctrl.irqEn = true ∧ (s.status.done = true ∨ s.status.error = true)) ∧
    (∀ (d : Word) (t : State), d.getLsbD 1 = true → d.getLsbD 2 = true → exec (.wrStatus d) s = .next t → irq t = false) ∧
    (∀ (d : Word) (t : State), exec (.wrCtrlSrst d) s = .next t → irq t = false) ∧
    (∀ (d : Word) (t : State), (Instr.wrCtrl d).wf = true → exec (.wrCtrl d) s = .next t →
      irq t = (d.getLsbD 8 && (s.status.done || s.status.error)))

/-! ### Whole-machine rules -/

/-- R95: a START transaction is the only step that begins a run. -/
def Obligations.OnlyStartBeginsARun : Prop :=
  ∀ s t : State, step s = .next t → s.run.fsm = .idle → t.run.fsm ≠ .idle → isStartTurn (turnOf s) = true

/-- R25: STATUS.FMT is written only by a START, a soft reset and `rst`. -/
def Obligations.FormatWrittenOnlyByStartAndResets : Prop :=
  ∀ s t : State, step s = .next t → t.status.fmt ≠ s.status.fmt →
    isStartTurn (turnOf s) = true ∨ isSoftResetTurn (turnOf s) = true ∨ turnOf s = .rst

/-- R26, R39, R71, R142: during a run no step but `rst` changes the configuration registers or the palette, and none but `rst`
and a soft reset changes ALPHA32_PASS or OUT_ORDER. -/
def Obligations.ConfigurationConstantDuringARun : Prop :=
  ∀ s t : State, step s = .next t → s.run.fsm ≠ .idle → turnOf s ≠ .rst →
    t.cfg = s.cfg ∧ t.pal = s.pal ∧
    (isSoftResetTurn (turnOf s) = false →
      t.ctrl.alpha32Pass = s.ctrl.alpha32Pass ∧ t.ctrl.outOrder = s.ctrl.outOrder)

/-- R53, R197: no step recalls or changes a beat that SINK has accepted, and only UNPACKER's turn in PIX adds one, at the end. -/
def Obligations.AcceptedBeatsAreFinal : Prop :=
  ∀ s t : State, step s = .next t →
    t.env.outQ = s.env.outQ ∨
    (turnOf s = .unpacker ∧ s.run.fsm = .pix ∧ s.env.sinkReady = true ∧ ∃ beat, t.env.outQ = s.env.outQ ++ [beat])

/-- R52: input bytes are taken one at a time from the head, by UNPACKER's turn within a run only; SRC adds at the end. That `rst`
leaves the offered bytes is the model's choice (R185 leaves it to the platform; log entry 13), and so is that a flush of SRC is a
turn that withdraws them all (log entry 22). -/
def Obligations.InputBytesTakenInOrder : Prop :=
  ∀ s t : State, step s = .next t →
    t.env.inQ = s.env.inQ ∨
    (∃ b, turnOf s = .src b ∧ t.env.inQ = s.env.inQ ++ [b]) ∨
    (turnOf s = .srcFlush ∧ t.env.inQ = []) ∨
    (turnOf s = .unpacker ∧ s.run.fsm ≠ .idle ∧ ∃ b, s.env.inQ = b :: t.env.inQ)

/-- R148: IGNWR is set only by a HOST write while busy, and once set only a STATUS write with DATA[16] = 1, a soft reset or
`rst` clears it. -/
def Obligations.IgnwrIsSticky : Prop :=
  ∀ s t : State, step s = .next t →
    (s.status.ignwr = false → t.status.ignwr = true → s.run.fsm ≠ .idle ∧ ∃ w, turnOf s = .host w ∧ busxWe w = true) ∧
    (s.status.ignwr = true → t.status.ignwr = false →
      isSoftResetTurn (turnOf s) = true ∨ turnOf s = .rst ∨
      ∃ w d, turnOf s = .host w ∧ decodeBusx w = .wrStatus d ∧ d.getLsbD 16 = true)

/-- R133, R102, R68: DONE rises only in the step that ends a run, with ROW = H and COL = 0, or in the START of an empty image. -/
def Obligations.DoneRisesOnlyAtTheEnd : Prop :=
  ∀ s t : State, step s = .next t → s.status.done = false → t.status.done = true →
    t.run.fsm = .idle ∧ t.run.col = 0 ∧
    ((turnOf s = .unpacker ∧ s.run.fsm ≠ .idle ∧ t.run.row.toNat = imageH s) ∨
      (isStartTurn (turnOf s) = true ∧ (imageW s = 0 ∨ imageH s = 0) ∧ t.run.row = 0))

/-- R166, R169: ERROR rises only in a START, in an idle block, and that step changes no run state and no stream. -/
def Obligations.ErrorRisesOnlyInStart : Prop :=
  ∀ s t : State, step s = .next t → s.status.error = false → t.status.error = true →
    isStartTurn (turnOf s) = true ∧ s.run.fsm = .idle ∧ t.run = s.run ∧ t.env = (afterTurn s).env ∧
    (t.status.errcode = 1 ∨ t.status.errcode = 2)

/-- R42: on UNPACKER's turn a byte is taken exactly when `in_ready` and SRC offers one, and a beat is handed over exactly when
`out_valid` and SINK is ready. -/
def Obligations.SignalsSayWhatUnpackerDoes : Prop :=
  ∀ s t : State, Inv s → turnOf s = .unpacker → step s = .next t →
    (s.env.inQ.length = t.env.inQ.length + 1 ↔ inReady s = true ∧ s.env.inQ ≠ []) ∧
    (t.env.outQ.length = s.env.outQ.length + 1 ↔ outValid s = true ∧ s.env.sinkReady = true)

/-- R199: while UNPACKER does not wait, each of its turns takes exactly one of the steps a run has still to take, and the run
ends, with DONE, exactly when none is left. -/
def Obligations.EachUnpackerTurnDoesOneStepOfWork : Prop :=
  ∀ s : State, Inv s → s.run.fsm ≠ .idle → turnOf s = .unpacker → stalled s = false →
    ∃ t, step s = .next t ∧ remaining s = remaining t + 1 ∧
      (remaining t = 0 ↔ t.run.fsm = .idle) ∧ (t.run.fsm = .idle → t.status.done = true)

/-- R134, R135, R199, with the pixel rules R110 to R121 and R127 to R133: a run that a START begins, given its req input bytes
and a ready SINK and left to itself, ends in DONE after exactly req + W·H steps; it has taken exactly req bytes, and the beats
accepted are the W·H beats of the image, in order. That UNPACKER moves on an empty schedule is the model's choice (log entry 1). -/
def Obligations.RunEmitsTheImage : Prop :=
  ∀ (d : Word) (s₀ s : State), Inv s₀ → (Instr.wrCtrlStart d).wf = true → s₀.run.fsm = .idle →
    exec (.wrCtrlStart d) s₀ = .next s → s.run.fsm = .pix → s.env.sched = [] → s.env.sinkReady = true → requiredNow s ≤ s.env.inQ.length →
    ∃ t : State, core.run (requiredNow s + imageW s * imageH s) s = .next t ∧
      t.env.outQ = s.env.outQ ++ imageBeats s s.env.inQ ∧ t.env.inQ = s.env.inQ.drop (requiredNow s) ∧
      t.run.fsm = .idle ∧ t.run.row.toNat = imageH s ∧ t.run.col = 0 ∧ t.status = { s.status with done := true } ∧
      t.ctrl = s.ctrl ∧ t.cfg = s.cfg ∧ t.pal = s.pal ∧
      t.env = { s.env with inQ := t.env.inQ, outQ := t.env.outQ }

/-- R122: when a byte is offered already, it does not matter whether SRC offers another before or after UNPACKER's step. -/
def Obligations.SrcOffersCommuteWithUnpacker : Prop :=
  ∀ (s : State) (b : Byte) (rest : List Turn), s.env.inQ ≠ [] →
    core.run 2 { s with env.sched := .src b :: .unpacker :: rest } =
      core.run 2 { s with env.sched := .unpacker :: .src b :: rest }

/-! ### HOST -/

/-- R93: each host command is the transactions, or the offered bytes, that its expansion says. -/
def Obligations.HostCommandsDecode : Prop :=
  (∀ a, expand (.rd a) = [.host (busxOf false a 0)] ∧ decodeBusx (busxOf false a 0) = .rd a 0) ∧
  (∀ a v, ∃ w, expand (.wr a v) = [.host w] ∧ busxWe w = true ∧ busxAddr w = a ∧ busxData w = v) ∧
  (∀ e v, ∃ w, expand (.pal e v) = [.host w] ∧ busxAddr w = 0x400 + 4 * e.setWidth 12 ∧ decodeBusx w = .wrPal e v) ∧
  (∀ bits : Word, bits.getLsbD 1 = false →
    ∃ w, expand (.start bits) = [.host w] ∧ decodeBusx w = .wrCtrlStart (bits ||| 1)) ∧
  (∀ bits : Word, ∃ w, expand (.srst bits) = [.host w] ∧ decodeBusx w = .wrCtrlSrst (bits ||| 2)) ∧
  (∃ w, expand .clr = [.host w] ∧ decodeBusx w = .wrStatus 0x00010006) ∧
  ∀ bytes, expand (.feed bytes) = bytes.map Turn.src

/-- R192: the palette writes of an indexed image (COMPRESSION 0 and BPP 4 or 8, R75) leave every entry below 2^BPP at the file's
word, or at 0 where the file has none; the entries from 2^BPP on, the draw of PAL_INIT and all other state stay. HOST's duties as
functions are the model's (log entry 19). -/
def Obligations.PaletteLoadFillsEveryEntry : Prop :=
  ∀ (buf : List Byte) (h : Header) (s : State) (rest : List Turn), h.compression = 0 → (h.bpp = 4 ∨ h.bpp = 8) →
    s.run.fsm = .idle →
    s.env.sched = expandAll (paletteCmds buf h) ++ rest →
    ∃ t : State, core.run (2 ^ h.bpp.toNat) s = .next t ∧
      (∀ i, i < 2 ^ h.bpp.toNat → t.pal.read (BitVec.ofNat 8 i) = if i < paletteCount h then
        bufU32 buf (14 + h.headerLength.toNat + 4 * i) else 0) ∧
      (∀ e : Byte, 2 ^ h.bpp.toNat ≤ e.toNat → t.pal.read e = s.pal.read e) ∧ t.pal.draw = s.pal.draw ∧
      t = { s with pal := t.pal, env.sched := rest }

/-- R168, R190, R192: HOST's checks in the order of R168, then the palette span of an indexed image. An image of one plane that
HOST refuses as NotSupported has no format, so START would refuse it as NotSupported too (R100). HOST's duties as functions are
the model's (log entry 19). -/
def Obligations.HostChecksFollowTheOrder : Prop :=
  ∀ (buf : List Byte) (outputLength : Nat) (h : Header), h = parseHeader buf →
    (hostChecks buf outputLength = .error .invalidImage ↔
      (buf.length < 54 ∨ bufByte buf 0 ≠ 0x42 ∨ bufByte buf 1 ≠ 0x4D) ∨
      (magnitude h.width * magnitude h.height * 4 ≤ outputLength ∧ h.planes = 1 ∧ h.compression = 0 ∧ (h.bpp = 4 ∨ h.bpp = 8) ∧
        buf.length < 14 + h.headerLength.toNat + 4 * paletteCount h)) ∧
    (hostChecks buf outputLength = .error .notEnoughSpace ↔
      54 ≤ buf.length ∧ bufByte buf 0 = 0x42 ∧ bufByte buf 1 = 0x4D ∧
      outputLength < magnitude h.width * magnitude h.height * 4) ∧
    (hostChecks buf outputLength = .error .notSupported ↔
      54 ≤ buf.length ∧ bufByte buf 0 = 0x42 ∧ bufByte buf 1 = 0x4D ∧
      magnitude h.width * magnitude h.height * 4 ≤ outputLength ∧
      (h.planes ≠ 1 ∨ h.bpp ∉ [4, 8, 24, 32] ∨ h.compression ∉ [0, 3])) ∧
    (hostChecks buf outputLength = .error .notSupported → h.planes = 1 → fmtOf h.compression h.bpp = Fmt.none) ∧
    ∀ h', hostChecks buf outputLength = .ok h' → h' = h

/-- R158, R195: a rewind of SRC leaves exactly the image's pixel data on offer, whatever was offered before, so that the next
run's byte 0 is the image's first; nothing else changes. That a flush is a turn is the model's choice (log entry 22), and HOST's
duties as functions are the model's (log entry 19). -/
def Obligations.RewindOffersThePixelDataAfresh : Prop :=
  ∀ (buf : List Byte) (h : Header) (s : State) (rest : List Turn), s.env.sched = rewindTurns buf h ++ rest →
    core.run (1 + (buf.length - h.pixelOffset.toNat)) s =
      .next { s with env.sched := rest, env.inQ := buf.drop h.pixelOffset.toNat }
end

