-- ==== Sys2Proof/Laws/Bits.lean ====
section
/-! SUPPORT. Taking words apart and putting them together: bytes of a word, fields of the three selectors, palette
addresses. -/

namespace Sys2Proof.Laws

open Sys2Proof.Machine

/-! ### Bytes of a word (R13, R50) -/

theorem getLsbD_bytes32 (b0 b1 b2 b3 : Byte) (i : Nat) : (bytes32 b0 b1 b2 b3).getLsbD i =
    if i < 8 then b0.getLsbD i else if i < 16 then b1.getLsbD (i - 8) else if i < 24 then b2.getLsbD (i - 16)
    else b3.getLsbD (i - 24) := by
  have h (b : Byte) (n : Nat) (hn : 8 ≤ n) : b.getLsbD n = false := BitVec.getLsbD_of_ge b n hn
  simp only [bytes32, BitVec.getLsbD_or, BitVec.getLsbD_shiftLeft, BitVec.getLsbD_setWidth]
  by_cases h0 : i < 8
  · have e1 : i < 16 := by omega
    have e2 : i < 24 := by omega
    have e3 : i < 32 := by omega
    simp [h0, e1, e2, e3]
  by_cases h1 : i < 16
  · have e2 : i < 24 := by omega
    have e3 : i < 32 := by omega
    have e4 : i - 8 < 32 := by omega
    simp [h0, h1, e2, e3, e4, h b0 i (by omega)]
  by_cases h2 : i < 24
  · have e3 : i < 32 := by omega
    have e4 : i - 8 < 32 := by omega
    have e5 : i - 16 < 32 := by omega
    simp [h0, h1, h2, e3, e4, e5, h b0 i (by omega), h b1 (i - 8) (by omega)]
  by_cases h3 : i < 32
  · have e4 : i - 8 < 32 := by omega
    have e5 : i - 16 < 32 := by omega
    have e6 : i - 24 < 32 := by omega
    simp [h0, h1, h2, h3, e4, e5, e6, h b0 i (by omega), h b1 (i - 8) (by omega), h b2 (i - 16) (by omega)]
  · simp [h0, h1, h2, h3, h b3 (i - 24) (by omega)]

theorem getLsbD_byteOf (k : Nat) (w : Word) (i : Nat) :
    (byteOf k w).getLsbD i = (decide (i < 8) && w.getLsbD (8 * k + i)) := by
  simp [byteOf, BitVec.getLsbD_extractLsb']

@[simp] theorem byteOf_zero_bytes32 (b0 b1 b2 b3 : Byte) : byteOf 0 (bytes32 b0 b1 b2 b3) = b0 := by
  apply BitVec.eq_of_getLsbD_eq
  intro i hi
  simp only [getLsbD_byteOf, getLsbD_bytes32]
  simp [hi]

@[simp] theorem byteOf_one_bytes32 (b0 b1 b2 b3 : Byte) : byteOf 1 (bytes32 b0 b1 b2 b3) = b1 := by
  apply BitVec.eq_of_getLsbD_eq
  intro i hi
  have h1 : 8 * 1 + i < 16 := by omega
  simp only [getLsbD_byteOf, getLsbD_bytes32, h1]
  simp [hi]

@[simp] theorem byteOf_two_bytes32 (b0 b1 b2 b3 : Byte) : byteOf 2 (bytes32 b0 b1 b2 b3) = b2 := by
  apply BitVec.eq_of_getLsbD_eq
  intro i hi
  have h0 : ¬ 8 * 2 + i < 16 := by omega
  have h1 : 8 * 2 + i < 24 := by omega
  have h2 : ¬ 8 * 2 + i < 8 := by omega
  simp only [getLsbD_byteOf, getLsbD_bytes32, h0, h1, h2]
  simp [hi]

@[simp] theorem byteOf_three_bytes32 (b0 b1 b2 b3 : Byte) : byteOf 3 (bytes32 b0 b1 b2 b3) = b3 := by
  apply BitVec.eq_of_getLsbD_eq
  intro i hi
  have h0 : ¬ 8 * 3 + i < 16 := by omega
  have h1 : ¬ 8 * 3 + i < 24 := by omega
  have h2 : ¬ 8 * 3 + i < 8 := by omega
  simp only [getLsbD_byteOf, getLsbD_bytes32, h0, h1, h2]
  simp [hi]

/-- A word is the little-endian assembly of its four bytes. -/
@[simp] theorem bytes32_byteOf (w : Word) : bytes32 (byteOf 0 w) (byteOf 1 w) (byteOf 2 w) (byteOf 3 w) = w := by
  apply BitVec.eq_of_getLsbD_eq
  intro i hi
  simp only [getLsbD_byteOf, getLsbD_bytes32]
  split
  · next h => simp [h]
  split
  · next h h' => simp [show i - 8 < 8 by omega, show 8 + (i - 8) = i by omega]
  split
  · next h h' h'' => simp [show i - 16 < 8 by omega, show 16 + (i - 16) = i by omega]
  · next h h' h'' => simp [show i - 24 < 8 by omega, show 24 + (i - 24) = i by omega]

/-- The assembly of R13 read as a concatenation. -/
theorem bytes32_eq_append (b0 b1 b2 b3 : Byte) : bytes32 b0 b1 b2 b3 = b3 ++ b2 ++ b1 ++ b0 := by
  apply BitVec.eq_of_getLsbD_eq
  intro i hi
  change (bytes32 b0 b1 b2 b3).getLsbD i = (b3 ++ b2 ++ b1 ++ b0 : BitVec (8 + 8 + 8 + 8)).getLsbD i
  rw [getLsbD_bytes32, BitVec.getLsbD_append, BitVec.getLsbD_append, BitVec.getLsbD_append]
  by_cases h0 : i < 8
  · simp [h0]
  by_cases h1 : i < 16
  · simp [h0, h1, show i - 8 < 8 by omega]
  by_cases h2 : i < 24
  · have e : i - 8 - 8 = i - 16 := by omega
    simp [h0, h1, h2, show ¬ i - 8 < 8 by omega, e, show i - 16 < 8 by omega]
  · have e : i - 8 - 8 = i - 16 := by omega
    have e' : i - 16 - 8 = i - 24 := by omega
    simp [h0, h1, h2, show ¬ i - 8 < 8 by omega, e, show ¬ i - 16 < 8 by omega, e']

/-! ### Fields of a bus transaction (R80) -/

theorem getLsbD_busxOf (we : Bool) (a : CsrAddr) (d : Word) (i : Nat) : (busxOf we a d).getLsbD i =
    if i < 32 then d.getLsbD i else if i < 44 then a.getLsbD (i - 32) else (decide (i = 44) && we) := by
  change (BitVec.ofBool we ++ a ++ d : BitVec (1 + 12 + 32)).getLsbD i = _
  rw [BitVec.getLsbD_append, BitVec.getLsbD_append]
  by_cases h0 : i < 32
  · simp [h0]
  by_cases h1 : i < 44
  · simp [h0, h1, show i - 32 < 12 by omega]
  · simp [h0, h1, show ¬ i - 32 < 12 by omega, BitVec.getLsbD_ofBool, show i - 32 - 12 = 0 ↔ i = 44 by omega]

@[simp] theorem busxWe_busxOf (we : Bool) (a : CsrAddr) (d : Word) : busxWe (busxOf we a d) = we := by
  rw [busxWe, getLsbD_busxOf]
  simp

@[simp] theorem busxAddr_busxOf (we : Bool) (a : CsrAddr) (d : Word) : busxAddr (busxOf we a d) = a := by
  apply BitVec.eq_of_getLsbD_eq
  intro i hi
  simp [busxAddr, getLsbD_busxOf, hi, show 32 + i < 44 by omega]

@[simp] theorem busxData_busxOf (we : Bool) (a : CsrAddr) (d : Word) : busxData (busxOf we a d) = d := by
  apply BitVec.eq_of_getLsbD_eq
  intro i hi
  simp [busxData, getLsbD_busxOf, hi]

@[simp] theorem busxOf_fields (w : Busx) : busxOf (busxWe w) (busxAddr w) (busxData w) = w := by
  apply BitVec.eq_of_getLsbD_eq
  intro i hi
  rw [getLsbD_busxOf]
  split
  · next h => simp [busxData, h]
  split
  · next h h' =>
    simp [busxAddr, show i - 32 < 12 by omega, show 32 + (i - 32) = i by omega]
  · next h h' => simp [busxWe, show i = 44 by omega]

/-! ### Fields of a format selector (R74) -/

@[simp] theorem fmtselOf_compression (c : Word) (b : BitVec 16) : (fmtselOf c b).extractLsb' 16 32 = c := by
  apply BitVec.eq_of_getLsbD_eq
  intro i hi
  rw [BitVec.getLsbD_extractLsb']
  change (decide (i < 32) && (c ++ b : BitVec (32 + 16)).getLsbD (16 + i)) = _
  rw [BitVec.getLsbD_append]
  simp [hi]

@[simp] theorem fmtselOf_bpp (c : Word) (b : BitVec 16) : (fmtselOf c b).extractLsb' 0 16 = b := by
  apply BitVec.eq_of_getLsbD_eq
  intro i hi
  rw [BitVec.getLsbD_extractLsb']
  change (decide (i < 16) && (c ++ b : BitVec (32 + 16)).getLsbD (0 + i)) = _
  rw [BitVec.getLsbD_append]
  simp [hi]

@[simp] theorem fmtselOf_fields (w : Fmtsel) : fmtselOf (w.extractLsb' 16 32) (w.extractLsb' 0 16) = w := by
  apply BitVec.eq_of_getLsbD_eq
  intro i hi
  change (w.extractLsb' 16 32 ++ w.extractLsb' 0 16 : BitVec (32 + 16)).getLsbD i = _
  rw [BitVec.getLsbD_append, BitVec.getLsbD_extractLsb', BitVec.getLsbD_extractLsb']
  split
  · next h => simp [h]
  · next h => simp [show i - 16 < 32 by omega, show 16 + (i - 16) = i by omega]

/-- Two format selectors are equal when both their fields are. -/
theorem fmtselOf_inj {c c' : Word} {b b' : BitVec 16} : fmtselOf c b = fmtselOf c' b' ↔ c = c' ∧ b = b' := by
  constructor
  · intro h
    exact ⟨by rw [← fmtselOf_compression c b, h, fmtselOf_compression], by rw [← fmtselOf_bpp c b, h, fmtselOf_bpp]⟩
  · rintro ⟨rfl, rfl⟩
    rfl

/-! ### Palette addresses (R51) -/

theorem isPaletteAddr_paletteAddr : ∀ e : Byte, isPaletteAddr (paletteAddr e) = true := by decide

theorem paletteEntry_paletteAddr : ∀ e : Byte, paletteEntry (paletteAddr e) = e := by decide

/-- An aligned window address is the address of the entry it reaches. -/
theorem paletteAddr_paletteEntry (a : CsrAddr) (h : isPaletteAddr a = true) : paletteAddr (paletteEntry a) = a := by
  simp only [isPaletteAddr, Bool.and_eq_true, beq_iff_eq] at h
  apply BitVec.eq_of_getLsbD_eq
  intro i hi
  change (0b01#2 ++ a.extractLsb' 2 8 ++ 0b00#2 : BitVec (2 + 8 + 2)).getLsbD i = _
  rw [BitVec.getLsbD_append, BitVec.getLsbD_append, BitVec.getLsbD_extractLsb']
  by_cases h0 : i < 2
  · have := congrArg (fun v : BitVec 2 => v.getLsbD i) h.2
    simp only [BitVec.getLsbD_extractLsb', h0] at this
    simpa [h0] using this.symm
  by_cases h1 : i < 10
  · simp [h0, show i - 2 < 8 by omega, show 2 + (i - 2) = i by omega]
  · have := congrArg (fun v : BitVec 2 => v.getLsbD (i - 10)) h.1
    simp only [BitVec.getLsbD_extractLsb', show i - 10 < 2 by omega, show 10 + (i - 10) = i by omega] at this
    simpa [h0, show ¬ i - 2 < 8 by omega, show i - 2 - 8 = i - 10 by omega] using this.symm

end Sys2Proof.Laws
end

