-- ==== Sys2Proof/Laws/Memory.lean ====
section
/-! SUPPORT. The laws of memory: a read after a write, what a write leaves alone, and that every memory operation keeps the
canonical form. -/

namespace Sys2Proof.Laws

open Sys2Proof.Machine

/-! ### One byte -/

@[simp] theorem find_writeByte_self (a : Nat) (b : Byte) (m : Memory) : Memory.find a (Memory.writeByte a b m) = some b := by
  induction m with
  | nil => simp [Memory.writeByte, Memory.find]
  | cons c rest ih =>
    simp only [Memory.writeByte]
    split
    · simp [Memory.find]
    split
    · simp [Memory.find]
    · next h h' => simp [Memory.find, Ne.symm h', ih]

theorem find_writeByte_ne {a a' : Nat} (h : a' ≠ a) (b : Byte) (m : Memory) :
    Memory.find a' (Memory.writeByte a b m) = Memory.find a' m := by
  induction m with
  | nil => simp [Memory.writeByte, Memory.find, Ne.symm h]
  | cons c rest ih =>
    simp only [Memory.writeByte]
    split
    · simp [Memory.find, Ne.symm h]
    split
    · next h1 h2 => simp [Memory.find, Ne.symm h, ← h2]
    · simp [Memory.find, ih]

theorem find_writeByte (a a' : Nat) (b : Byte) (m : Memory) :
    Memory.find a' (Memory.writeByte a b m) = if a' = a then some b else Memory.find a' m := by
  split
  · next h => rw [h, find_writeByte_self]
  · next h => exact find_writeByte_ne h b m

/-! ### The canonical form -/

theorem rising_cons (c : Host.Cell) (m : Memory) :
    Memory.rising (c :: m) = true ↔ (∀ d ∈ m.head?, c.1 < d.1) ∧ Memory.rising m = true := by
  cases m with
  | nil => simp [Memory.rising]
  | cons d rest => simp [Memory.rising]

theorem head_writeByte (a : Nat) (b : Byte) (m : Memory) :
    ∀ d ∈ (Memory.writeByte a b m).head?, d.1 = a ∨ ∃ e ∈ m.head?, d.1 = e.1 := by
  cases m with
  | nil => simp [Memory.writeByte]
  | cons c rest =>
    simp only [Memory.writeByte]
    split
    · simp
    split <;> simp

theorem rising_writeByte (a : Nat) (b : Byte) (m : Memory) (h : Memory.rising m = true) :
    Memory.rising (Memory.writeByte a b m) = true := by
  induction m with
  | nil => rfl
  | cons c rest ih =>
    simp only [Memory.writeByte]
    split
    · next h1 => exact (rising_cons _ _).2 ⟨by simpa using h1, h⟩
    split
    · next h1 h2 =>
      rw [rising_cons] at h ⊢
      exact ⟨by simpa [h2] using h.1, h.2⟩
    · next h1 h2 =>
      rw [rising_cons] at h ⊢
      refine ⟨fun d hd => ?_, ih h.2⟩
      rcases head_writeByte a b rest d hd with he | ⟨e, he, hde⟩
      · omega
      · rw [hde]
        exact h.1 e he

theorem all_writeByte (p : Host.Cell → Bool) (a : Nat) (b : Byte) (m : Memory) (h : m.all p = true) (hb : p (a, b) = true) :
    (Memory.writeByte a b m).all p = true := by
  induction m with
  | nil => simp [Memory.writeByte, hb]
  | cons c rest ih =>
    simp only [List.all_cons, Bool.and_eq_true] at h
    simp only [Memory.writeByte]
    split
    · simpa [hb, h.1] using h.2
    split
    · simpa [hb] using h.2
    · simpa [h.1] using ih h.2

/-- Writing a byte of the palette window keeps the canonical form. -/
theorem wf_writeByte (a : Nat) (b : Byte) (m : Memory) (h : Memory.wf m = true) (lo : 0x400 ≤ a) (hi : a < 0x800) :
    Memory.wf (Memory.writeByte a b m) = true := by
  simp only [Memory.wf, Bool.and_eq_true] at h ⊢
  exact ⟨rising_writeByte a b m h.1, all_writeByte _ a b m h.2 (by simp [lo, hi])⟩

/-! ### Palette entries -/

theorem palByteAddr_lt (e : Byte) : palByteAddr e + 3 < 0x800 := by
  have := e.isLt
  unfold palByteAddr
  omega

theorem palByteAddr_ge (e : Byte) : 0x400 ≤ palByteAddr e := by
  unfold palByteAddr
  omega

/-- Writing a palette entry keeps the canonical form. -/
theorem wf_palette_write (p : Palette) (e : Byte) (v : Word) (h : Memory.wf p.mem = true) :
    Memory.wf (p.write e v).mem = true := by
  have lo := palByteAddr_ge e
  have hi := palByteAddr_lt e
  unfold Palette.write
  exact wf_writeByte _ _ _ (wf_writeByte _ _ _ (wf_writeByte _ _ _ (wf_writeByte _ _ _ h
    (by omega) (by omega)) (by omega) (by omega)) (by omega) (by omega)) (by omega) (by omega)

@[simp] theorem palette_write_draw (p : Palette) (e : Byte) (v : Word) : (p.write e v).draw = p.draw := rfl

/-- A byte of the palette after a write of an entry: byte k of the word at the entry's k-th address, else as before. -/
theorem readByte_write (p : Palette) (e : Byte) (v : Word) (a : Nat) : (p.write e v).readByte a =
    if palByteAddr e ≤ a ∧ a < palByteAddr e + 4 then byteOf (a - palByteAddr e) v else p.readByte a := by
  simp only [Palette.readByte, Palette.write, find_writeByte]
  by_cases h : palByteAddr e ≤ a ∧ a < palByteAddr e + 4
  · rw [if_pos h]
    obtain ⟨k, rfl⟩ : ∃ k, a = palByteAddr e + k := ⟨a - palByteAddr e, by omega⟩
    have hk : k < 4 := by omega
    rw [Nat.add_sub_cancel_left]
    match k, hk with
    | 0, _ => simp
    | 1, _ => simp
    | 2, _ => simp
    | 3, _ => simp
  · rw [if_neg h, if_neg (by omega), if_neg (by omega), if_neg (by omega), if_neg (by omega)]

theorem palByteAddr_inj {e e' : Byte} : palByteAddr e = palByteAddr e' ↔ e = e' := by
  unfold palByteAddr
  rw [← BitVec.toNat_inj]
  omega

/-- `PalRead` after `PalWrite`: the value written, and every other entry as before. -/
theorem read_write (p : Palette) (e e' : Byte) (v : Word) : (p.write e v).read e' = if e' = e then v else p.read e' := by
  simp only [Palette.read, readByte_write]
  by_cases h : e' = e
  · subst h
    simp
  · have : palByteAddr e' ≠ palByteAddr e := fun hh => h (palByteAddr_inj.1 hh)
    have h4 : ∀ x : Byte, palByteAddr x % 4 = 0 := fun x => by unfold palByteAddr; omega
    have := h4 e
    have := h4 e'
    rw [if_neg h, if_neg (by omega), if_neg (by omega), if_neg (by omega), if_neg (by omega)]

/-- An entry of a palette that nothing has written since the reset reads as PAL_INIT of the standing draw (R33). -/
theorem read_unwritten (draw : Nat) (e : Byte) : ({ mem := [], draw := draw } : Palette).read e = Config.palInit draw e := by
  have h (k : Nat) (hk : k < 4) : palUnlisted draw (palByteAddr e + k) = byteOf k (Config.palInit draw e) := by
    have h1 : (palByteAddr e + k) % 4 = k := by unfold palByteAddr; omega
    have h2 : (palByteAddr e + k - 0x400) / 4 = e.toNat := by unfold palByteAddr; omega
    rw [palUnlisted, h1, h2, BitVec.ofNat_toNat, BitVec.setWidth_eq]
  have h0 := h 0 (by omega)
  rw [Nat.add_zero] at h0
  simp [Palette.read, Palette.readByte, Memory.find, h0, h 1 (by omega), h 2 (by omega), h 3 (by omega)]

end Sys2Proof.Laws
end

