-- ==== Sys2Proof/Laws/State.lean ====
section
/-! SUPPORT. For each named update of the state, what it makes of each of the state's six parts: so that no proof unfolds a
record update. -/

namespace Sys2Proof.Laws

open Sys2Proof.Machine

/-! ### outPush -/

@[simp] theorem outPush_ctrl (beat : Beat) (s : State) : (outPush beat s).ctrl = s.ctrl := rfl
@[simp] theorem outPush_status (beat : Beat) (s : State) : (outPush beat s).status = s.status := rfl
@[simp] theorem outPush_cfg (beat : Beat) (s : State) : (outPush beat s).cfg = s.cfg := rfl
@[simp] theorem outPush_pal (beat : Beat) (s : State) : (outPush beat s).pal = s.pal := rfl
@[simp] theorem outPush_run (beat : Beat) (s : State) : (outPush beat s).run = s.run := rfl
@[simp] theorem outPush_env (beat : Beat) (s : State) : (outPush beat s).env = { s.env with outQ := s.env.outQ ++ [beat] } := rfl

/-! ### srcOffer -/

@[simp] theorem srcOffer_ctrl (b : Byte) (s : State) : (srcOffer b s).ctrl = s.ctrl := rfl
@[simp] theorem srcOffer_status (b : Byte) (s : State) : (srcOffer b s).status = s.status := rfl
@[simp] theorem srcOffer_cfg (b : Byte) (s : State) : (srcOffer b s).cfg = s.cfg := rfl
@[simp] theorem srcOffer_pal (b : Byte) (s : State) : (srcOffer b s).pal = s.pal := rfl
@[simp] theorem srcOffer_run (b : Byte) (s : State) : (srcOffer b s).run = s.run := rfl
@[simp] theorem srcOffer_env (b : Byte) (s : State) : (srcOffer b s).env = { s.env with inQ := s.env.inQ ++ [b] } := rfl

/-! ### srcFlush -/

@[simp] theorem srcFlush_ctrl (s : State) : (srcFlush s).ctrl = s.ctrl := rfl
@[simp] theorem srcFlush_status (s : State) : (srcFlush s).status = s.status := rfl
@[simp] theorem srcFlush_cfg (s : State) : (srcFlush s).cfg = s.cfg := rfl
@[simp] theorem srcFlush_pal (s : State) : (srcFlush s).pal = s.pal := rfl
@[simp] theorem srcFlush_run (s : State) : (srcFlush s).run = s.run := rfl
@[simp] theorem srcFlush_env (s : State) : (srcFlush s).env = { s.env with inQ := [] } := rfl

/-! ### sinkSet -/

@[simp] theorem sinkSet_ctrl (ready : Bool) (s : State) : (sinkSet ready s).ctrl = s.ctrl := rfl
@[simp] theorem sinkSet_status (ready : Bool) (s : State) : (sinkSet ready s).status = s.status := rfl
@[simp] theorem sinkSet_cfg (ready : Bool) (s : State) : (sinkSet ready s).cfg = s.cfg := rfl
@[simp] theorem sinkSet_pal (ready : Bool) (s : State) : (sinkSet ready s).pal = s.pal := rfl
@[simp] theorem sinkSet_run (ready : Bool) (s : State) : (sinkSet ready s).run = s.run := rfl
@[simp] theorem sinkSet_env (ready : Bool) (s : State) : (sinkSet ready s).env = { s.env with sinkReady := ready } := rfl

/-! ### returnRead -/

@[simp] theorem returnRead_ctrl (v : Word) (s : State) : (returnRead v s).ctrl = s.ctrl := rfl
@[simp] theorem returnRead_status (v : Word) (s : State) : (returnRead v s).status = s.status := rfl
@[simp] theorem returnRead_cfg (v : Word) (s : State) : (returnRead v s).cfg = s.cfg := rfl
@[simp] theorem returnRead_pal (v : Word) (s : State) : (returnRead v s).pal = s.pal := rfl
@[simp] theorem returnRead_run (v : Word) (s : State) : (returnRead v s).run = s.run := rfl
@[simp] theorem returnRead_env (v : Word) (s : State) : (returnRead v s).env = { s.env with rdLog := s.env.rdLog ++ [v] } := rfl

/-! ### storeAcc -/

@[simp] theorem storeAcc_ctrl (b : Byte) (n : Fin 5) (s : State) : (storeAcc b n s).ctrl = s.ctrl := rfl
@[simp] theorem storeAcc_status (b : Byte) (n : Fin 5) (s : State) : (storeAcc b n s).status = s.status := rfl
@[simp] theorem storeAcc_cfg (b : Byte) (n : Fin 5) (s : State) : (storeAcc b n s).cfg = s.cfg := rfl
@[simp] theorem storeAcc_pal (b : Byte) (n : Fin 5) (s : State) : (storeAcc b n s).pal = s.pal := rfl
@[simp] theorem storeAcc_run (b : Byte) (n : Fin 5) (s : State) : (storeAcc b n s).run = { s.run with acc := s.run.acc.setIfInBounds s.run.accN.val b, accN := n } := rfl
@[simp] theorem storeAcc_env (b : Byte) (n : Fin 5) (s : State) : (storeAcc b n s).env = s.env := rfl

/-! ### clearCounters -/

@[simp] theorem clearCounters_ctrl (s : State) : (clearCounters s).ctrl = s.ctrl := rfl
@[simp] theorem clearCounters_status (s : State) : (clearCounters s).status = s.status := rfl
@[simp] theorem clearCounters_cfg (s : State) : (clearCounters s).cfg = s.cfg := rfl
@[simp] theorem clearCounters_pal (s : State) : (clearCounters s).pal = s.pal := rfl
@[simp] theorem clearCounters_run (s : State) : (clearCounters s).run = { s.run with row := 0, col := 0, accN := 0, nibph := false, padLeft := 0 } := rfl
@[simp] theorem clearCounters_env (s : State) : (clearCounters s).env = s.env := rfl

/-! ### clearOutcome -/

@[simp] theorem clearOutcome_ctrl (s : State) : (clearOutcome s).ctrl = s.ctrl := rfl
@[simp] theorem clearOutcome_status (s : State) : (clearOutcome s).status = { s.status with done := false, error := false, errcode := 0 } := rfl
@[simp] theorem clearOutcome_cfg (s : State) : (clearOutcome s).cfg = s.cfg := rfl
@[simp] theorem clearOutcome_pal (s : State) : (clearOutcome s).pal = s.pal := rfl
@[simp] theorem clearOutcome_run (s : State) : (clearOutcome s).run = s.run := rfl
@[simp] theorem clearOutcome_env (s : State) : (clearOutcome s).env = s.env := rfl

/-! ### setFmt -/

@[simp] theorem setFmt_ctrl (fmt : FmtCode) (s : State) : (setFmt fmt s).ctrl = s.ctrl := rfl
@[simp] theorem setFmt_status (fmt : FmtCode) (s : State) : (setFmt fmt s).status = { s.status with fmt := fmt } := rfl
@[simp] theorem setFmt_cfg (fmt : FmtCode) (s : State) : (setFmt fmt s).cfg = s.cfg := rfl
@[simp] theorem setFmt_pal (fmt : FmtCode) (s : State) : (setFmt fmt s).pal = s.pal := rfl
@[simp] theorem setFmt_run (fmt : FmtCode) (s : State) : (setFmt fmt s).run = s.run := rfl
@[simp] theorem setFmt_env (fmt : FmtCode) (s : State) : (setFmt fmt s).env = s.env := rfl

/-! ### setDone -/

@[simp] theorem setDone_ctrl (s : State) : (setDone s).ctrl = s.ctrl := rfl
@[simp] theorem setDone_status (s : State) : (setDone s).status = { s.status with done := true } := rfl
@[simp] theorem setDone_cfg (s : State) : (setDone s).cfg = s.cfg := rfl
@[simp] theorem setDone_pal (s : State) : (setDone s).pal = s.pal := rfl
@[simp] theorem setDone_run (s : State) : (setDone s).run = s.run := rfl
@[simp] theorem setDone_env (s : State) : (setDone s).env = s.env := rfl

/-! ### setIgnwr -/

@[simp] theorem setIgnwr_ctrl (s : State) : (setIgnwr s).ctrl = s.ctrl := rfl
@[simp] theorem setIgnwr_status (s : State) : (setIgnwr s).status = { s.status with ignwr := true } := rfl
@[simp] theorem setIgnwr_cfg (s : State) : (setIgnwr s).cfg = s.cfg := rfl
@[simp] theorem setIgnwr_pal (s : State) : (setIgnwr s).pal = s.pal := rfl
@[simp] theorem setIgnwr_run (s : State) : (setIgnwr s).run = s.run := rfl
@[simp] theorem setIgnwr_env (s : State) : (setIgnwr s).env = s.env := rfl

/-! ### raise -/

@[simp] theorem raise_ctrl (e : ErrorKind) (s : State) : (raise e s).ctrl = s.ctrl := rfl
@[simp] theorem raise_status (e : ErrorKind) (s : State) : (raise e s).status = { s.status with error := true, errcode := errcodeOf e } := rfl
@[simp] theorem raise_cfg (e : ErrorKind) (s : State) : (raise e s).cfg = s.cfg := rfl
@[simp] theorem raise_pal (e : ErrorKind) (s : State) : (raise e s).pal = s.pal := rfl
@[simp] theorem raise_run (e : ErrorKind) (s : State) : (raise e s).run = s.run := rfl
@[simp] theorem raise_env (e : ErrorKind) (s : State) : (raise e s).env = s.env := rfl

/-! ### clearError -/

@[simp] theorem clearError_ctrl (s : State) : (clearError s).ctrl = s.ctrl := rfl
@[simp] theorem clearError_status (s : State) : (clearError s).status = { s.status with error := false, errcode := 0 } := rfl
@[simp] theorem clearError_cfg (s : State) : (clearError s).cfg = s.cfg := rfl
@[simp] theorem clearError_pal (s : State) : (clearError s).pal = s.pal := rfl
@[simp] theorem clearError_run (s : State) : (clearError s).run = s.run := rfl
@[simp] theorem clearError_env (s : State) : (clearError s).env = s.env := rfl

/-! ### softClear -/

@[simp] theorem softClear_ctrl (s : State) : (softClear s).ctrl = s.ctrl := rfl
@[simp] theorem softClear_status (s : State) : (softClear s).status = { done := false, error := false, errcode := 0, fmt := 0, ignwr := false } := rfl
@[simp] theorem softClear_cfg (s : State) : (softClear s).cfg = s.cfg := rfl
@[simp] theorem softClear_pal (s : State) : (softClear s).pal = s.pal := rfl
@[simp] theorem softClear_run (s : State) : (softClear s).run = Run.reset := rfl
@[simp] theorem softClear_env (s : State) : (softClear s).env = s.env := rfl

/-! ### hardReset -/

@[simp] theorem hardReset_ctrl (s : State) : (hardReset s).ctrl = State.reset.ctrl := rfl
@[simp] theorem hardReset_status (s : State) : (hardReset s).status = State.reset.status := rfl
@[simp] theorem hardReset_cfg (s : State) : (hardReset s).cfg = State.reset.cfg := rfl
@[simp] theorem hardReset_pal (s : State) : (hardReset s).pal = { mem := [], draw := s.pal.draw + 1 } := rfl
@[simp] theorem hardReset_run (s : State) : (hardReset s).run = Run.reset := rfl
@[simp] theorem hardReset_env (s : State) : (hardReset s).env = s.env := rfl

/-! ### keepNibble -/

@[simp] theorem keepNibble_ctrl (s : State) : (keepNibble s).ctrl = s.ctrl := rfl
@[simp] theorem keepNibble_status (s : State) : (keepNibble s).status = s.status := rfl
@[simp] theorem keepNibble_cfg (s : State) : (keepNibble s).cfg = s.cfg := rfl
@[simp] theorem keepNibble_pal (s : State) : (keepNibble s).pal = s.pal := rfl
@[simp] theorem keepNibble_run (s : State) : (keepNibble s).run = { s.run with nib := s.run.acc[0], nibph := true } := rfl
@[simp] theorem keepNibble_env (s : State) : (keepNibble s).env = s.env := rfl

/-! ### afterTurn -/

@[simp] theorem afterTurn_ctrl (s : State) : (afterTurn s).ctrl = s.ctrl := rfl
@[simp] theorem afterTurn_status (s : State) : (afterTurn s).status = s.status := rfl
@[simp] theorem afterTurn_cfg (s : State) : (afterTurn s).cfg = s.cfg := rfl
@[simp] theorem afterTurn_pal (s : State) : (afterTurn s).pal = s.pal := rfl
@[simp] theorem afterTurn_run (s : State) : (afterTurn s).run = s.run := rfl
@[simp] theorem afterTurn_env (s : State) : (afterTurn s).env = { s.env with sched := (nextTurn s.env.sched).2 } := rfl

/-! ### schedule -/

@[simp] theorem schedule_ctrl (t : Turn) (s : State) : (schedule t s).ctrl = s.ctrl := rfl
@[simp] theorem schedule_status (t : Turn) (s : State) : (schedule t s).status = s.status := rfl
@[simp] theorem schedule_cfg (t : Turn) (s : State) : (schedule t s).cfg = s.cfg := rfl
@[simp] theorem schedule_pal (t : Turn) (s : State) : (schedule t s).pal = s.pal := rfl
@[simp] theorem schedule_run (t : Turn) (s : State) : (schedule t s).run = s.run := rfl
@[simp] theorem schedule_env (t : Turn) (s : State) : (schedule t s).env = { s.env with sched := t :: s.env.sched } := rfl

/-! ### Values derived from the configuration registers alone -/

theorem imageW_of_cfg {s t : State} (h : t.cfg = s.cfg) : imageW t = imageW s := by rw [imageW, imageW, h]

theorem imageH_of_cfg {s t : State} (h : t.cfg = s.cfg) : imageH t = imageH s := by rw [imageH, imageH, h]

end Sys2Proof.Laws
end

