-- ==== Sys2Proof/Laws/Start.lean ====
section
/-! SUPPORT. Everything the START check can do (spec/40_dispatch.md rules R99 to R103), said once. -/

namespace Sys2Proof.Laws

open Sys2Proof.Machine

/-- STATUS as the START check leaves it when its outcome is an error of the given code (R100, R101). -/
def failedStatus (fmt : FmtCode) (code : BitVec 2) (st : Status) : Status :=
  { done := false, error := true, errcode := code, fmt := fmt, ignwr := st.ignwr }

/-- STATUS as a START that passed its checks leaves it (R102, R103). -/
def passedStatus (fmt : FmtCode) (done : Bool) (st : Status) : Status :=
  { done := done, error := false, errcode := 0, fmt := fmt, ignwr := st.ignwr }

/-- The run state with the counters that START clears (R99). -/
def clearedRun (r : Run) : Run := { r with row := 0, col := 0, accN := 0, nibph := false, padLeft := 0 }

theorem startSelected_none (s : State) :
    startSelected Fmt.none s = { s with status := failedStatus Fmt.none 1 s.status } := rfl

theorem startSelected_short {fmt : FmtCode} (s : State) (hf : fmt ≠ Fmt.none)
    (hr : required fmt (imageW s) (imageH s) > s.cfg.srcAvail.toNat) :
    startSelected fmt s = { s with status := failedStatus fmt 2 s.status } :=
  (if_neg hf).trans (if_pos hr)

/-- START once both checks have passed. -/
theorem startSelected_passed {fmt : FmtCode} (s : State) (hf : fmt ≠ Fmt.none)
    (hr : required fmt (imageW s) (imageH s) ≤ s.cfg.srcAvail.toNat) :
    startSelected fmt s = beginRun (setFmt fmt (clearOutcome s)) :=
  (if_neg hf).trans (if_neg (Nat.not_lt.2 hr))

theorem startSelected_empty {fmt : FmtCode} (s : State) (hf : fmt ≠ Fmt.none)
    (hr : required fmt (imageW s) (imageH s) ≤ s.cfg.srcAvail.toNat) (he : imageW s = 0 ∨ imageH s = 0) :
    startSelected fmt s = { s with status := passedStatus fmt true s.status, run := clearedRun s.run } :=
  (startSelected_passed s hf hr).trans (if_pos he)

theorem startSelected_run {fmt : FmtCode} (s : State) (hf : fmt ≠ Fmt.none)
    (hr : required fmt (imageW s) (imageH s) ≤ s.cfg.srcAvail.toNat) (hw : imageW s ≠ 0) (hh : imageH s ≠ 0) :
    startSelected fmt s =
      { s with status := passedStatus fmt false s.status, run := { clearedRun s.run with fsm := .pix } } :=
  (startSelected_passed s hf hr).trans (if_neg (not_or.2 ⟨hw, hh⟩))

/-- The four outcomes of the START check: NotSupported, InvalidImage, an empty image, a run. -/
theorem startSelected_cases (fmt : FmtCode) (s : State) :
    (fmt = Fmt.none ∧ startSelected fmt s = { s with status := failedStatus Fmt.none 1 s.status }) ∨
    (fmt ≠ Fmt.none ∧ required fmt (imageW s) (imageH s) > s.cfg.srcAvail.toNat ∧
      startSelected fmt s = { s with status := failedStatus fmt 2 s.status }) ∨
    (fmt ≠ Fmt.none ∧ (imageW s = 0 ∨ imageH s = 0) ∧
      startSelected fmt s = { s with status := passedStatus fmt true s.status, run := clearedRun s.run }) ∨
    (fmt ≠ Fmt.none ∧ required fmt (imageW s) (imageH s) ≤ s.cfg.srcAvail.toNat ∧ imageW s ≠ 0 ∧ imageH s ≠ 0 ∧
      startSelected fmt s =
        { s with status := passedStatus fmt false s.status, run := { clearedRun s.run with fsm := .pix } }) := by
  by_cases hf : fmt = Fmt.none
  · subst hf
    exact .inl ⟨rfl, startSelected_none s⟩
  by_cases hr : required fmt (imageW s) (imageH s) > s.cfg.srcAvail.toNat
  · exact .inr (.inl ⟨hf, hr, startSelected_short s hf hr⟩)
  have hr' : required fmt (imageW s) (imageH s) ≤ s.cfg.srcAvail.toNat := by omega
  by_cases he : imageW s = 0 ∨ imageH s = 0
  · exact .inr (.inr (.inl ⟨hf, he, startSelected_empty s hf hr' he⟩))
  · rw [not_or] at he
    exact .inr (.inr (.inr ⟨hf, hr', he.1, he.2, startSelected_run s hf hr' he.1 he.2⟩))

/-- The START check changes nothing but STATUS and the run state. -/
theorem startSelected_frame (fmt : FmtCode) (s : State) :
    (startSelected fmt s).ctrl = s.ctrl ∧ (startSelected fmt s).cfg = s.cfg ∧ (startSelected fmt s).pal = s.pal ∧
    (startSelected fmt s).env = s.env ∧ (startSelected fmt s).status.ignwr = s.status.ignwr := by
  rcases startSelected_cases fmt s with ⟨_, h⟩ | ⟨_, _, h⟩ | ⟨_, _, h⟩ | ⟨_, _, _, _, h⟩ <;> rw [h] <;> exact ⟨rfl, rfl, rfl, rfl, rfl⟩

/-- `fmtOf` gives one of the six codes (R76, R96). -/
theorem fmtOf_le (c : Word) (b : BitVec 16) : (fmtOf c b).toNat ≤ 5 := by
  simp only [fmtOf]
  split_ifs <;> decide

end Sys2Proof.Laws
end

