-- ==== Sys2Proof/Laws/Unpacker.lean ====
section
/-! SUPPORT. Everything the row sequencing of spec/42_row_padding.md can do, said once for each of its operations. -/

namespace Sys2Proof.Laws

open Sys2Proof.Machine

/-! ### Lengths -/

theorem padBytes_lt (fmt : FmtCode) (w : Nat) : padBytes fmt w < 4 := Nat.mod_lt _ (by decide)

theorem magnitude_le (v : Word) : magnitude v ≤ 2 ^ 31 := by
  have hv := v.isLt
  unfold magnitude
  split
  · next h =>
    have : 2 ^ 31 ≤ v.toNat := BitVec.le_toNat_of_msb_true ((BitVec.msb_eq_getLsbD_last v).trans h)
    omega
  · next h =>
    have : v.toNat < 2 ^ 31 := BitVec.toNat_lt_of_msb_false ((BitVec.msb_eq_getLsbD_last v).trans (Bool.eq_false_iff.2 h))
    omega

theorem toNat_ofNat_imageW (s : State) : (BitVec.ofNat 32 (imageW s)).toNat = imageW s := by
  have : imageW s ≤ 2 ^ 31 := magnitude_le _
  rw [BitVec.toNat_ofNat]
  omega

theorem toNat_padBytes (fmt : FmtCode) (w : Nat) : (BitVec.ofNat 2 (padBytes fmt w)).toNat = padBytes fmt w := by
  have := padBytes_lt fmt w
  rw [BitVec.toNat_ofNat]
  omega

/-! ### rowEnd (R132, R133) -/

/-- The run state at the start of the next row, or after the last one. -/
def nextRow (fsm : Fsm) (r : Run) : Run := { r with fsm := fsm, row := r.row + 1, col := 0, padLeft := 0 }

theorem rowEnd_last (s : State) (h : (s.run.row + 1).toNat = imageH s) :
    rowEnd s = { s with run := nextRow .idle s.run, status.done := true } := if_pos h

theorem rowEnd_more (s : State) (h : (s.run.row + 1).toNat ≠ imageH s) :
    rowEnd s = { s with run := nextRow .pix s.run } := if_neg h

/-! ### advance (R130) -/

theorem advance_within (s : State) (h : s.run.col.toNat + 1 ≠ imageW s) :
    advance s = { s with run.accN := 0, run.col := s.run.col + 1 } := if_neg h

theorem advance_pad (s : State) (h : s.run.col.toNat + 1 = imageW s) (hp : padBytes s.status.fmt (imageW s) ≠ 0) :
    advance s =
      { s with
        run.accN := 0, run.col := BitVec.ofNat 32 (imageW s), run.nibph := false, run.fsm := .pad,
        run.padLeft := BitVec.ofNat 2 (padBytes s.status.fmt (imageW s)) } :=
  (if_pos h).trans (if_pos (Nat.pos_of_ne_zero hp))

/-- The last pixel of a row without padding ends the row. -/
theorem advance_rowEnd (s : State) (h : s.run.col.toNat + 1 = imageW s) (hp : padBytes s.status.fmt (imageW s) = 0) :
    advance s = rowEnd { s with run.accN := 0, run.col := BitVec.ofNat 32 (imageW s), run.nibph := false } :=
  (if_pos h).trans (if_neg (by simpa [imageW] using hp))

theorem advance_row (s : State) (h : s.run.col.toNat + 1 = imageW s) (hp : padBytes s.status.fmt (imageW s) = 0)
    (hr : (s.run.row + 1).toNat ≠ imageH s) :
    advance s = { s with run := { nextRow .pix s.run with accN := 0, nibph := false } } :=
  (advance_rowEnd s h hp).trans (rowEnd_more _ hr)

theorem advance_done (s : State) (h : s.run.col.toNat + 1 = imageW s) (hp : padBytes s.status.fmt (imageW s) = 0)
    (hr : (s.run.row + 1).toNat = imageH s) :
    advance s = { s with run := { nextRow .idle s.run with accN := 0, nibph := false }, status.done := true } :=
  (advance_rowEnd s h hp).trans (rowEnd_last _ hr)

/-- The four things `advance()` can do: the next column, into padding, the next row, the end of the run. -/
theorem advance_cases (s : State) :
    (s.run.col.toNat + 1 ≠ imageW s ∧ advance s = { s with run.accN := 0, run.col := s.run.col + 1 }) ∨
    (s.run.col.toNat + 1 = imageW s ∧ padBytes s.status.fmt (imageW s) ≠ 0 ∧ advance s =
      { s with
        run.accN := 0, run.col := BitVec.ofNat 32 (imageW s), run.nibph := false, run.fsm := .pad,
        run.padLeft := BitVec.ofNat 2 (padBytes s.status.fmt (imageW s)) }) ∨
    (s.run.col.toNat + 1 = imageW s ∧ padBytes s.status.fmt (imageW s) = 0 ∧ (s.run.row + 1).toNat ≠ imageH s ∧
      advance s = { s with run := { nextRow .pix s.run with accN := 0, nibph := false } }) ∨
    (s.run.col.toNat + 1 = imageW s ∧ padBytes s.status.fmt (imageW s) = 0 ∧ (s.run.row + 1).toNat = imageH s ∧
      advance s = { s with run := { nextRow .idle s.run with accN := 0, nibph := false }, status.done := true }) := by
  by_cases h : s.run.col.toNat + 1 = imageW s
  · by_cases hp : padBytes s.status.fmt (imageW s) = 0
    · by_cases hr : (s.run.row + 1).toNat = imageH s
      · exact .inr (.inr (.inr ⟨h, hp, hr, advance_done s h hp hr⟩))
      · exact .inr (.inr (.inl ⟨h, hp, hr, advance_row s h hp hr⟩))
    · exact .inr (.inl ⟨h, hp, advance_pad s h hp⟩)
  · exact .inl ⟨h, advance_within s h⟩

/-- `advance()` changes nothing but the run state and STATUS.DONE, which it never clears. -/
theorem advance_frame (s : State) :
    (advance s).ctrl = s.ctrl ∧ (advance s).cfg = s.cfg ∧ (advance s).pal = s.pal ∧ (advance s).env = s.env ∧
    ((advance s).status = s.status ∨ (advance s).status = { s.status with done := true }) := by
  rcases advance_cases s with ⟨_, h⟩ | ⟨_, _, h⟩ | ⟨_, _, _, h⟩ | ⟨_, _, _, h⟩ <;> rw [h]
  · exact ⟨rfl, rfl, rfl, rfl, .inl rfl⟩
  · exact ⟨rfl, rfl, rfl, rfl, .inl rfl⟩
  · exact ⟨rfl, rfl, rfl, rfl, .inl rfl⟩
  · exact ⟨rfl, rfl, rfl, rfl, .inr rfl⟩

/-! ### PAD_SKIP (R131) -/

/-- The three things a padding byte can do: leave more padding, end the row, end the run. -/
theorem skipPad_cases (s : State) :
    (s.run.padLeft - 1 ≠ 0 ∧ skipPad s = { s with run.padLeft := s.run.padLeft - 1 }) ∨
    (s.run.padLeft - 1 = 0 ∧ (s.run.row + 1).toNat ≠ imageH s ∧ skipPad s = { s with run := nextRow .pix s.run }) ∨
    (s.run.padLeft - 1 = 0 ∧ (s.run.row + 1).toNat = imageH s ∧
      skipPad s = { s with run := nextRow .idle s.run, status.done := true }) := by
  by_cases hp : s.run.padLeft - 1 = 0
  · by_cases hr : (s.run.row + 1).toNat = imageH s
    · exact .inr (.inr ⟨hp, hr, (if_pos hp).trans (rowEnd_last _ hr)⟩)
    · exact .inr (.inl ⟨hp, hr, (if_pos hp).trans (rowEnd_more _ hr)⟩)
  · exact .inl ⟨hp, if_neg hp⟩

end Sys2Proof.Laws
end

