-- ==== Sys2Proof/Laws/Moves.lean ====
section
/-! SUPPORT. What each kind of instruction and each step can do, said once: one lemma for the EMIT steps, the byte-taking
steps and the CTRL writes, and the step taken apart by its turn. -/

namespace Sys2Proof.Laws

open Sys2Proof.Machine

/-! ### Selectors -/

/-- Which STEPSEL row the state selects (R79): the run phase, FULL, and for a full pixel its format. -/
theorem stepsel_decode : ∀ (full : Bool) (fsm : Fsm) (fmt : FmtCode) (nibph : Bool),
    decodeStepsel (stepselOf full (fsmCode fsm) fmt nibph) = match fsm with
      | .idle => .ok (.idle full fmt nibph)
      | .pad => .ok (.padSkip full fmt nibph)
      | .pix =>
        if full = false then .ok (.inByte fmt nibph)
        else if fmt = Fmt.idx4 then .ok (if nibph then .emitIdx4Lo else .emitIdx4Hi)
        else if nibph then .error .unreachableStepSelector
        else if fmt = Fmt.idx8 then .ok .emitIdx8
        else if fmt = Fmt.rgb24 then .ok .emitRgb24
        else if fmt = Fmt.rgb32 then .ok .emitRgb32
        else if fmt = Fmt.bf32 then .ok .emitBf32
        else .error .unreachableStepSelector := by
  intro full fsm
  cases fsm <;> revert full <;> decide

/-! ### The byte-taking steps -/

theorem inPop_nil {s : State} (h : s.env.inQ = []) : inPop s = none := by simp [inPop, h]

theorem inPop_cons {s : State} {b : Byte} {rest : List Byte} (h : s.env.inQ = b :: rest) :
    inPop s = some (b, { s with env.inQ := rest }) := by simp [inPop, h]

/-! ### The EMIT steps -/

/-- Each EMIT step computes a pixel. -/
theorem emitPixel_of_isEmit {i : Instr} (s : State) (h : isEmit i = true) : ∃ p, emitPixel s i = some p := by
  cases i <;> simp [isEmit] at h <;> exact ⟨_, rfl⟩

/-- What an EMIT step does with SINK ready: its pixel's beat is handed over and the position advances, from the nibble state
that the step leaves (R112, R114, R115). -/
theorem exec_emit {i : Instr} {s : State} {p : Pixel} (h : emitPixel s i = some p) (hs : s.env.sinkReady = true) :
    exec i s = .next (advance (outPush (beatOf p s) { s with run := emitNibble s.run i })) := by
  have hi : ∀ x : Byte, hiNibble x = BitVec.ofNat 8 (x.toNat / 16) := by decide
  have lo : ∀ x : Byte, loNibble x = BitVec.ofNat 8 (x.toNat % 16) := by decide
  cases i <;> simp only [emitPixel, reduceCtorEq] at h
  all_goals (injection h with h; subst h)
  · show execEmitIdx4Hi s = _
    rw [execEmitIdx4Hi, whenSinkReady, if_pos hs, hi]
    rfl
  · show execEmitIdx4Lo s = _
    rw [execEmitIdx4Lo, whenSinkReady, if_pos hs, lo]
    rfl
  · exact congrArg Host.Outcome.next (if_pos hs)
  · exact congrArg Host.Outcome.next (if_pos hs)
  · exact congrArg Host.Outcome.next (if_pos hs)
  · show execEmitBf32 s = _
    rw [execEmitBf32, whenSinkReady, if_pos hs, bf32Pixel, bytes32_eq_append]
    rfl

/-- With SINK not ready an EMIT step does not fire. -/
theorem exec_emit_stalled {i : Instr} {s : State} (h : isEmit i = true) (hs : s.env.sinkReady = false) : exec i s = .next s := by
  have hs' : ¬ s.env.sinkReady = true := by simp [hs]
  cases i <;> simp [isEmit] at h <;> exact congrArg Host.Outcome.next (if_neg hs')

/-! ### The FMTSEL rows -/

/-- A FMTSEL row runs the rest of the START check with its format. -/
theorem exec_format {i : Instr} {f : FmtCode} (h : formatRow i = some f) (s : State) :
    exec i s = .next (startSelected f s) ∧ f ≠ Fmt.none := by
  cases i <;> simp [formatRow] at h <;> subst h <;> exact ⟨rfl, by decide⟩

/-! ### CTRL writes (R147) -/

theorem writeCtrl_idle (data : Word) (s : State) (h : s.run.fsm = .idle) : writeCtrl data s =
    if data.getLsbD 0 then startCheck { s with ctrl := ctrlOfData data } else { s with ctrl := ctrlOfData data } := by
  simp [writeCtrl, h, ctrlOfData]

theorem writeCtrl_busy (data : Word) (s : State) (h : s.run.fsm ≠ .idle) : writeCtrl data s =
    { s with
      ctrl.irqEn := data.getLsbD 8,
      status.ignwr := s.status.ignwr || data.getLsbD 0 || data.getLsbD 4 != s.ctrl.alpha32Pass ||
        data.getLsbD 5 != s.ctrl.outOrder } := by
  simp only [writeCtrl, h, if_false]
  split
  · next hc =>
    have : (s.status.ignwr || data.getLsbD 0 || data.getLsbD 4 != s.ctrl.alpha32Pass || data.getLsbD 5 != s.ctrl.outOrder) = true := by
      simp only [Bool.or_eq_true, bne_iff_ne]
      rcases hc with hc | hc | hc
      · exact .inl (.inl (.inr hc))
      · exact .inl (.inr hc)
      · exact .inr hc
    rw [this]
    rfl
  · next hc =>
    have hc' := not_or.1 hc
    have hc'' := not_or.1 hc'.2
    have : (s.status.ignwr || data.getLsbD 0 || data.getLsbD 4 != s.ctrl.alpha32Pass || data.getLsbD 5 != s.ctrl.outOrder)
        = s.status.ignwr := by
      have e1 : data.getLsbD 0 = false := by simpa using hc'.1
      have e2 := not_not.1 hc''.1
      have e3 := not_not.1 hc''.2
      rw [e1, e2, e3]
      simp
    rw [this]

/-! ### The step by its turn -/

theorem step_host {s : State} {w : Busx} {rest : List Turn} (h : s.env.sched = .host w :: rest) :
    step s = exec (decodeBusx w) { s with env.sched := rest } := by
  simp [step, nextMove, nextTurn, moveOf, afterTurn, h]

theorem step_src {s : State} {b : Byte} {rest : List Turn} (h : s.env.sched = .src b :: rest) :
    step s = .next (srcOffer b { s with env.sched := rest }) := by
  simp [step, nextMove, nextTurn, moveOf, afterTurn, h]

theorem step_srcFlush {s : State} {rest : List Turn} (h : s.env.sched = .srcFlush :: rest) :
    step s = .next (srcFlush { s with env.sched := rest }) := by
  simp [step, nextMove, nextTurn, moveOf, afterTurn, h]

theorem step_sink {s : State} {r : Bool} {rest : List Turn} (h : s.env.sched = .sink r :: rest) :
    step s = .next (sinkSet r { s with env.sched := rest }) := by
  simp [step, nextMove, nextTurn, moveOf, afterTurn, h]

theorem step_rst {s : State} {rest : List Turn} (h : s.env.sched = .rst :: rest) :
    step s = .next (hardReset { s with env.sched := rest }) := by
  simp [step, nextMove, nextTurn, moveOf, afterTurn, h]

theorem step_unpacker {s : State} (h : (nextTurn s.env.sched).1 = .unpacker) : step s =
    match decodeStepsel (stepsel s) with
    | .ok i => exec i (afterTurn s)
    | .error _ => .fault .unreachableStepSelector := by
  have e : stepsel (afterTurn s) = stepsel s := rfl
  simp only [step, nextMove, h, moveOf, e]
  cases decodeStepsel (stepsel s) with
  | ok i => rfl
  | error e => cases e; rfl

/-- The step as a match on its turn. -/
theorem step_by_turn (s : State) : step s = match turnOf s with
  | .host w => exec (decodeBusx w) (afterTurn s)
  | .src b => .next (srcOffer b (afterTurn s))
  | .srcFlush => .next (srcFlush (afterTurn s))
  | .sink ready => .next (sinkSet ready (afterTurn s))
  | .rst => .next (hardReset (afterTurn s))
  | .unpacker => match decodeStepsel (stepsel s) with
    | .ok i => exec i (afterTurn s)
    | .error _ => .fault .unreachableStepSelector := by
  cases h : turnOf s with
  | unpacker => exact step_unpacker h
  | _ =>
    simp only [step, nextMove]
    rw [show (nextTurn s.env.sched).1 = turnOf s from rfl, h]
    rfl

/-! ### Runs -/

theorem run_next {k : Nat} {s t : State} (h : step s = .next t) : core.run (k + 1) s = core.run k t := by
  have h' : core.step s = .next t := h
  simp only [Host.Core.run, h']

theorem run_fault {k : Nat} {s : State} {f : Fault} (h : step s = .fault f) : core.run (k + 1) s = .fault f := by
  have h' : core.step s = .fault f := h
  simp only [Host.Core.run, h']

theorem run_refused {k : Nat} {s : State} {r : Refusal} (h : step s = .refused r) : core.run (k + 1) s = .refused r := by
  have h' : core.step s = .refused r := h
  simp only [Host.Core.run, h']

end Sys2Proof.Laws
end

