-- ==== Sys2Proof/Laws/PerInstr.lean ====
section
/-! SUPPORT. Statements about each instruction as syntax, one lemma per constructor. MatchesRow: the word the encoder gives a
well-formed instruction has, under the mask of the instruction's row of spec/opcode_table.json, that row's match. -/

namespace Sys2Proof.Laws

/-- The encoded word matches the opcode table's row of the instruction. -/
def MatchesRow.Statement (i : Instr) : Prop :=
  i.wf = true → (encode i).toNat &&& (tableRow i).2 = (tableRow i).1

/-- A bus word under a mask, field by field. -/
theorem busxOf_and (we wm : Bool) (a am : CsrAddr) (d dm : Word) :
    busxOf we a d &&& busxOf wm am dm = busxOf (we && wm) (a &&& am) (d &&& dm) := by
  apply BitVec.eq_of_getLsbD_eq
  intro i hi
  rw [BitVec.getLsbD_and, getLsbD_busxOf, getLsbD_busxOf, getLsbD_busxOf, BitVec.getLsbD_and, BitVec.getLsbD_and]
  split_ifs
  · rfl
  · rfl
  · cases decide (i = 44) <;> rfl

theorem busx_matches (we wm : Bool) (a am : CsrAddr) (d dm : Word) {mask val : Nat}
    (hm : (busxOf wm am dm).toNat = mask) (hv : (busxOf (we && wm) (a &&& am) (d &&& dm)).toNat = val) :
    (busxOf we a d).toNat &&& mask = val := by
  rw [← hm, ← BitVec.toNat_and, busxOf_and, hv]

/-- A write to one fixed address, whatever its data. -/
theorem write_matches (a : CsrAddr) (d : Word) {val : Nat} (hv : (busxOf true a 0#32).toNat = val) :
    (busxOf true a d).toNat &&& 0x1FFF00000000 = val := by
  refine busx_matches true true a 0xFFF#12 d 0#32 (by decide) ?_
  rw [show a &&& 0xFFF#12 = a from BitVec.and_allOnes, BitVec.and_zero]
  exact hv

/-- The bits a CTRL row compares, from the bits of DATA. -/
theorem data_and_three (d : Word) : d &&& 3#32 = BitVec.ofNat 32 ((d.getLsbD 1).toNat * 2 + (d.getLsbD 0).toNat) := by
  have h : ∀ i, 2 ≤ i → i < 32 → (3#32).getLsbD i = false := by
    intro i h2 hi
    interval_cases i <;> rfl
  apply BitVec.eq_of_getLsbD_eq
  intro i hi
  rw [BitVec.getLsbD_and]
  match i, hi with
  | 0, _ => cases d.getLsbD 0 <;> cases d.getLsbD 1 <;> rfl
  | 1, _ => cases d.getLsbD 0 <;> cases d.getLsbD 1 <;> rfl
  | i + 2, hi =>
    rw [h _ (by omega) hi, Bool.and_false]
    have : ∀ b c : Bool, ∀ j, 2 ≤ j → (BitVec.ofNat 32 (b.toNat * 2 + c.toNat)).getLsbD j = false := by
      intro b c j hj
      rw [BitVec.getLsbD_ofNat]
      have : (b.toNat * 2 + c.toNat).testBit j = false := by
        apply Nat.testBit_lt_two_pow
        have : 2 ^ 2 ≤ 2 ^ j := Nat.pow_le_pow_right (by omega) hj
        have := Bool.toNat_lt b
        have := Bool.toNat_lt c
        omega
      rw [this, Bool.and_false]
    exact (this _ _ _ (by omega)).symm

theorem data_and_two (d : Word) (h : d.getLsbD 1 = true) : d &&& 2#32 = 2#32 := by
  have e : d &&& 2#32 = (d &&& 3#32) &&& 2#32 := by rw [BitVec.and_assoc]; rfl
  rw [e, data_and_three, h]
  cases d.getLsbD 0 <;> rfl

/-! ### FMTSEL -/

theorem MatchesRow.fmtIdx4 : MatchesRow.Statement .fmtIdx4 := fun _ => by decide
theorem MatchesRow.fmtIdx8 : MatchesRow.Statement .fmtIdx8 := fun _ => by decide
theorem MatchesRow.fmtRgb24 : MatchesRow.Statement .fmtRgb24 := fun _ => by decide
theorem MatchesRow.fmtRgb32 : MatchesRow.Statement .fmtRgb32 := fun _ => by decide
theorem MatchesRow.fmtBf32 : MatchesRow.Statement .fmtBf32 := fun _ => by decide
theorem MatchesRow.fmtNone (compression : Word) (bpp : BitVec 16) : MatchesRow.Statement (.fmtNone compression bpp) :=
  fun _ => Nat.and_zero _

/-! ### STEPSEL -/

theorem MatchesRow.idle (full : Bool) (fmt : FmtCode) (nibph : Bool) : MatchesRow.Statement (.idle full fmt nibph) := fun _ => by
  revert full fmt nibph; decide
theorem MatchesRow.inByte (fmt : FmtCode) (nibph : Bool) : MatchesRow.Statement (.inByte fmt nibph) := fun _ => by
  revert fmt nibph; decide
theorem MatchesRow.emitIdx4Hi : MatchesRow.Statement .emitIdx4Hi := fun _ => by decide
theorem MatchesRow.emitIdx4Lo : MatchesRow.Statement .emitIdx4Lo := fun _ => by decide
theorem MatchesRow.emitIdx8 : MatchesRow.Statement .emitIdx8 := fun _ => by decide
theorem MatchesRow.emitRgb24 : MatchesRow.Statement .emitRgb24 := fun _ => by decide
theorem MatchesRow.emitRgb32 : MatchesRow.Statement .emitRgb32 := fun _ => by decide
theorem MatchesRow.emitBf32 : MatchesRow.Statement .emitBf32 := fun _ => by decide
theorem MatchesRow.padSkip (full : Bool) (fmt : FmtCode) (nibph : Bool) : MatchesRow.Statement (.padSkip full fmt nibph) :=
  fun _ => by revert full fmt nibph; decide

/-! ### BUSX -/

theorem MatchesRow.rd (addr : CsrAddr) (data : Word) : MatchesRow.Statement (.rd addr data) := fun _ => by
  change (busxOf false addr data).toNat &&& 0x100000000000 = 0x000000000000
  exact busx_matches _ true _ 0#12 _ 0#32 (by decide) (by rw [BitVec.and_zero, BitVec.and_zero]; decide)
theorem MatchesRow.wrCtrlSrst (data : Word) : MatchesRow.Statement (.wrCtrlSrst data) := fun h => by
  change (busxOf true 0x000 data).toNat &&& 0x1FFF00000002 = 0x100000000002
  exact busx_matches _ true _ 0xFFF#12 _ 2#32 (by decide) (by rw [data_and_two data h]; decide)
theorem MatchesRow.wrCtrlStart (data : Word) : MatchesRow.Statement (.wrCtrlStart data) := fun h => by
  simp only [Instr.wf, Bool.and_eq_true, Bool.not_eq_true'] at h
  change (busxOf true 0x000 data).toNat &&& 0x1FFF00000003 = 0x100000000001
  exact busx_matches _ true _ 0xFFF#12 _ 3#32 (by decide) (by rw [data_and_three, h.1, h.2]; decide)
theorem MatchesRow.wrCtrl (data : Word) : MatchesRow.Statement (.wrCtrl data) := fun h => by
  simp only [Instr.wf, Bool.and_eq_true, Bool.not_eq_true'] at h
  change (busxOf true 0x000 data).toNat &&& 0x1FFF00000003 = 0x100000000000
  exact busx_matches _ true _ 0xFFF#12 _ 3#32 (by decide) (by rw [data_and_three, h.1, h.2]; decide)
theorem MatchesRow.wrStatus (data : Word) : MatchesRow.Statement (.wrStatus data) := fun _ =>
  write_matches 0x004 data (val := 0x100400000000) (by decide)
theorem MatchesRow.wrBpp (data : Word) : MatchesRow.Statement (.wrBpp data) := fun _ =>
  write_matches 0x008 data (val := 0x100800000000) (by decide)
theorem MatchesRow.wrCompression (data : Word) : MatchesRow.Statement (.wrCompression data) := fun _ =>
  write_matches 0x00C data (val := 0x100C00000000) (by decide)
theorem MatchesRow.wrWidth (data : Word) : MatchesRow.Statement (.wrWidth data) := fun _ =>
  write_matches 0x010 data (val := 0x101000000000) (by decide)
theorem MatchesRow.wrHeight (data : Word) : MatchesRow.Statement (.wrHeight data) := fun _ =>
  write_matches 0x014 data (val := 0x101400000000) (by decide)
theorem MatchesRow.wrMaskR (data : Word) : MatchesRow.Statement (.wrMaskR data) := fun _ =>
  write_matches 0x018 data (val := 0x101800000000) (by decide)
theorem MatchesRow.wrMaskG (data : Word) : MatchesRow.Statement (.wrMaskG data) := fun _ =>
  write_matches 0x01C data (val := 0x101C00000000) (by decide)
theorem MatchesRow.wrMaskB (data : Word) : MatchesRow.Statement (.wrMaskB data) := fun _ =>
  write_matches 0x020 data (val := 0x102000000000) (by decide)
theorem MatchesRow.wrMaskA (data : Word) : MatchesRow.Statement (.wrMaskA data) := fun _ =>
  write_matches 0x024 data (val := 0x102400000000) (by decide)
theorem MatchesRow.wrSrcAvail (data : Word) : MatchesRow.Statement (.wrSrcAvail data) := fun _ =>
  write_matches 0x028 data (val := 0x102800000000) (by decide)
theorem MatchesRow.wrRoRow (data : Word) : MatchesRow.Statement (.wrRoRow data) := fun _ =>
  write_matches 0x02C data (val := 0x102C00000000) (by decide)
theorem MatchesRow.wrRoCol (data : Word) : MatchesRow.Statement (.wrRoCol data) := fun _ =>
  write_matches 0x030 data (val := 0x103000000000) (by decide)
theorem MatchesRow.wrRoId (data : Word) : MatchesRow.Statement (.wrRoId data) := fun _ =>
  write_matches 0x03C data (val := 0x103C00000000) (by decide)
theorem MatchesRow.wrPal (entry : Byte) (data : Word) : MatchesRow.Statement (.wrPal entry data) := fun _ => by
  have h : ∀ e : Byte, paletteAddr e &&& 0xC03#12 = 0x400#12 := by decide
  change (busxOf true (paletteAddr entry) data).toNat &&& 0x1C0300000000 = 0x140000000000
  exact busx_matches _ true _ 0xC03#12 _ 0#32 (by decide) (by rw [h, BitVec.and_zero]; decide)
theorem MatchesRow.wrUnmapped (addr : CsrAddr) (data : Word) : MatchesRow.Statement (.wrUnmapped addr data) := fun _ => by
  change (busxOf true addr data).toNat &&& 0x100000000000 = 0x100000000000
  exact busx_matches _ true _ 0#12 _ 0#32 (by decide) (by rw [BitVec.and_zero, BitVec.and_zero]; decide)

end Sys2Proof.Laws
end

