-- ==== Sys2Proof/Tests/Slice0.lean ====
section
/-! SUPPORT. The model's own tests: ill-formed terms refused, every constructor's decoding of a word written out from the
spec, one step of each instruction against the vectors of spec/95_test_vectors.md, and for each statement with hypotheses a
state that meets them, clause by clause. -/

namespace Sys2Proof.Tests

open Sys2Proof.Machine

/-! ### Small states -/

/-- An idle block after reset with five configuration registers written, as a row of the START table begins. -/
def configured (bpp : BitVec 16) (compression width height srcAvail : Word) : State :=
  { State.reset with
    cfg.bpp := bpp, cfg.compression := compression, cfg.width := width, cfg.height := height, cfg.srcAvail := srcAvail }

/-- A run in PIX at row 0, column 0 of a W × H image, with `accN` bytes of the pixel taken. -/
def inRun (fmt : FmtCode) (w h : Word) (acc : Vector Byte 4) (accN : Fin 5) : State :=
  { State.reset with
    cfg.width := w, cfg.height := h, status.fmt := fmt, run.fsm := .pix, run.acc := acc, run.accN := accN }

/-- The last row's padding of a W × H image, with `left` bytes still to be discarded. -/
def inPadding (fmt : FmtCode) (w h : Word) (left : BitVec 2) : State :=
  { inRun fmt w h #v[0x0D, 0x0E, 0x0F, 0x00] 0 with run.fsm := .pad, run.padLeft := left, run.col := w, run.row := h - 1 }

def offered (bytes : List Byte) (s : State) : State := { s with env.inQ := bytes }
/-- The first 54 bytes of a BMP file (R66) of `size` × `size` pixels, with pixel data at 58. -/
def headerBytes (planes bpp compression : Byte) (size : Byte := 0) : List Byte :=
  [0x42, 0x4D] ++ List.replicate 8 0 ++ [58, 0, 0, 0, 40, 0, 0, 0] ++ [size, 0, 0, 0, size, 0, 0, 0] ++
    [planes, 0, bpp, 0, compression, 0, 0, 0] ++ List.replicate 20 0
def turns (l : List Turn) (s : State) : State := { s with env.sched := l }
def sinkBusy (s : State) : State := { s with env.sinkReady := false }
def rgba (s : State) : State := { s with ctrl.outOrder := true }
def withPal (e : Byte) (v : Word) (s : State) : State := { s with pal := s.pal.write e v }
def atPos (row col : Word) (s : State) : State := { s with run.row := row, run.col := col }
def masked (r g b a : Word) (s : State) : State := { s with cfg.maskR := r, cfg.maskG := g, cfg.maskB := b, cfg.maskA := a }
def lowNibble (b : Byte) (col : Word) (s : State) : State := { s with run.nib := b, run.nibph := true, run.col := col, run.accN := 0 }

/-- The outcome is a next state of which the check holds. -/
def gives (o : Host.Outcome State Fault Refusal) (check : State → Bool) : Bool :=
  match o with
  | .next t => check t
  | .fault _ => false
  | .refused _ => false

/-- STATUS as HOST reads it. -/
def status (s : State) : Word := readValue s 0x004

/-! ### WellFormed: one ill-formed term for each check -/

theorem test_wf_refuses_fmtNone_of_a_format : (Instr.fmtNone 0 24).wf = false ∧ (Instr.fmtNone 3 32).wf = false := by decide
theorem test_wf_refuses_srst_without_bit1 : (Instr.wrCtrlSrst 0x0000_0001).wf = false := by decide
theorem test_wf_refuses_start_with_bit1 : (Instr.wrCtrlStart 0x0000_0003).wf = false := by decide
theorem test_wf_refuses_start_without_bit0 : (Instr.wrCtrlStart 0x0000_0100).wf = false := by decide
theorem test_wf_refuses_plain_ctrl_with_start : (Instr.wrCtrl 0x0000_0001).wf = false := by decide
theorem test_wf_refuses_plain_ctrl_with_srst : (Instr.wrCtrl 0x0000_0002).wf = false := by decide
theorem test_wf_refuses_unmapped_of_a_csr : (Instr.wrUnmapped 0x03C 0).wf = false := by decide
theorem test_wf_refuses_unmapped_of_the_palette : (Instr.wrUnmapped 0x7FC 0).wf = false := by decide

/-! ### Decoding: every constructor, from words of the spec's encoding -/

-- R75, T-DEC-1 to T-DEC-7
theorem test_decode_fmtIdx4 : decode (.fmtsel 0x0000_0000_0004) = .ok .fmtIdx4 := by decide
theorem test_decode_fmtIdx8 : decode (.fmtsel 0x0000_0000_0008) = .ok .fmtIdx8 := by decide
theorem test_decode_fmtRgb24 : decode (.fmtsel 0x0000_0000_0018) = .ok .fmtRgb24 := by decide
theorem test_decode_fmtRgb32 : decode (.fmtsel 0x0000_0000_0020) = .ok .fmtRgb32 := by decide
theorem test_decode_fmtBf32 : decode (.fmtsel 0x0000_0003_0020) = .ok .fmtBf32 := by decide
theorem test_decode_fmtNone : decode (.fmtsel 0x0000_0001_0008) = .ok (.fmtNone 1 8) := by decide

-- R79, T-DEC-8 to T-DEC-13: FULL, FSM, FMT, NIBPH
theorem test_decode_idle : decode (.stepsel 0b1_00_101_0) = .ok (.idle true 5 false) := by decide
theorem test_decode_inByte : decode (.stepsel 0b0_01_111_1) = .ok (.inByte 7 true) := by decide
theorem test_decode_emitIdx4Hi : decode (.stepsel 0b1_01_001_0) = .ok .emitIdx4Hi := by decide
theorem test_decode_emitIdx4Lo : decode (.stepsel 0b1_01_001_1) = .ok .emitIdx4Lo := by decide
theorem test_decode_emitIdx8 : decode (.stepsel 0b1_01_010_0) = .ok .emitIdx8 := by decide
theorem test_decode_emitRgb24 : decode (.stepsel 0b1_01_011_0) = .ok .emitRgb24 := by decide
theorem test_decode_emitRgb32 : decode (.stepsel 0b1_01_100_0) = .ok .emitRgb32 := by decide
theorem test_decode_emitBf32 : decode (.stepsel 0b1_01_101_0) = .ok .emitBf32 := by decide
theorem test_decode_padSkip : decode (.stepsel 0b0_10_011_0) = .ok (.padSkip false 3 false) := by decide
theorem test_decode_unreachable : decode (.stepsel 0b1_01_000_0) = .error .unreachableStepSelector ∧
    decode (.stepsel 0b0_11_000_0) = .error .unreachableStepSelector := by decide

-- R81, T-DEC-14 to T-DEC-18 and the words of section 8: WE, ADDR, DATA
theorem test_decode_rd : decode (.busx 0x0_03C_0000_0000) = .ok (.rd 0x03C 0) := by decide
theorem test_decode_wrCtrlSrst : decode (.busx 0x1_000_0000_0133) = .ok (.wrCtrlSrst 0x133) := by decide
theorem test_decode_wrCtrlStart : decode (.busx 0x1_000_FFFF_FFFD) = .ok (.wrCtrlStart 0xFFFF_FFFD) := by decide
theorem test_decode_wrCtrl : decode (.busx 0x1_000_0000_0100) = .ok (.wrCtrl 0x100) := by decide
theorem test_decode_wrStatus : decode (.busx 0x1_004_0001_0000) = .ok (.wrStatus 0x1_0000) := by decide
theorem test_decode_wrBpp : decode (.busx 0x1_008_1234_0020) = .ok (.wrBpp 0x1234_0020) := by decide
theorem test_decode_wrCompression : decode (.busx 0x1_00C_0000_0003) = .ok (.wrCompression 3) := by decide
theorem test_decode_wrWidth : decode (.busx 0x1_010_0000_0005) = .ok (.wrWidth 5) := by decide
theorem test_decode_wrHeight : decode (.busx 0x1_014_FFFF_FFFE) = .ok (.wrHeight 0xFFFF_FFFE) := by decide
theorem test_decode_wrMaskR : decode (.busx 0x1_018_00FF_0000) = .ok (.wrMaskR 0x00FF_0000) := by decide
theorem test_decode_wrMaskG : decode (.busx 0x1_01C_0000_FF00) = .ok (.wrMaskG 0xFF00) := by decide
theorem test_decode_wrMaskB : decode (.busx 0x1_020_0000_00FF) = .ok (.wrMaskB 0xFF) := by decide
theorem test_decode_wrMaskA : decode (.busx 0x1_024_FF00_0000) = .ok (.wrMaskA 0xFF00_0000) := by decide
theorem test_decode_wrSrcAvail : decode (.busx 0x1_028_0000_0010) = .ok (.wrSrcAvail 16) := by decide
theorem test_decode_wrPal : decode (.busx 0x1_43C_0060_5040) = .ok (.wrPal 15 0x0060_5040) := by decide
theorem test_decode_wrRoRow : decode (.busx 0x1_02C_0000_0005) = .ok (.wrRoRow 5) := by decide
theorem test_decode_wrRoCol : decode (.busx 0x1_030_0000_0000) = .ok (.wrRoCol 0) := by decide
theorem test_decode_wrRoId : decode (.busx 0x1_03C_0000_0000) = .ok (.wrRoId 0) := by decide
theorem test_decode_wrUnmapped : decode (.busx 0x1_401_0000_0007) = .ok (.wrUnmapped 0x401 7) := by decide

/-- The words of the opcode table reach the same decoder (log entry 12). -/
theorem test_decodeTableWord : decodeTableWord 48 0x30020 = some .fmtBf32 ∧ decodeTableWord 7 0b1010011 = some .emitIdx4Lo ∧
    decodeTableWord 8 0b1011100 = none ∧ decodeTableWord 45 0x1_43C_0000_0000 = some (.wrPal 15 0) ∧
    decodeTableWord 48 0x1_000_0000_0001 = some (.wrCtrlStart 1) := by decide

/-! ### FMTSEL: the START check (section 2 of the vectors) -/

-- T-ST-3, T-ST-4
theorem test_fmtIdx4_starts : gives (exec .fmtIdx4 (configured 4 0 2 1 4)) (fun t => status t == 0x0000_0101) = true := by decide
theorem test_fmtIdx4_counts_padding : gives (exec .fmtIdx4 (configured 4 0 1 1 3)) (fun t => status t == 0x0000_0124) = true := by decide
-- T-ST-20, T-ST-21
theorem test_fmtIdx8_int_min_passes :
    gives (exec .fmtIdx8 (configured 8 0 0x8000_0000 1 0x8000_0000)) (fun t => status t == 0x0000_0201) = true := by decide
theorem test_fmtIdx8_int_min_short :
    gives (exec .fmtIdx8 (configured 8 0 0x8000_0000 1 0x7FFF_FFFF)) (fun t => status t == 0x0000_0224) = true := by decide
-- T-ST-2, T-ST-18
theorem test_fmtRgb24_short : gives (exec .fmtRgb24 (configured 24 0 2 0xFFFF_FFFE 15)) (fun t => status t == 0x0000_0324) = true := by decide
theorem test_fmtRgb24_empty : gives (exec .fmtRgb24 (configured 24 0 0 5 0)) (fun t => status t == 0x0000_0302) = true := by decide
-- T-ST-8, T-ST-22
theorem test_fmtRgb32_starts : gives (exec .fmtRgb32 (configured 32 0 3 3 36)) (fun t => status t == 0x0000_0401) = true := by decide
theorem test_fmtRgb32_exact_product :
    gives (exec .fmtRgb32 (configured 32 0 0x0001_0000 0x0001_0000 0xFFFF_FFFF)) (fun t => status t == 0x0000_0424) = true := by decide
-- T-ST-9, T-ST-11
theorem test_fmtBf32_starts : gives (exec .fmtBf32 (configured 32 3 1 1 4)) (fun t => status t == 0x0000_0501) = true := by decide
theorem test_fmtBf32_short : gives (exec .fmtBf32 (configured 32 3 1 1 3)) (fun t => status t == 0x0000_0524) = true := by decide
-- T-ST-17
theorem test_fmtNone_before_bounds : gives (exec (.fmtNone 1 17) (configured 17 1 1 1 0)) (fun t => status t == 0x0000_0014) = true := by decide

/-! ### STEPSEL (sections 3 and 4 of the vectors) -/

-- T-DEC-12
theorem test_idle_does_nothing : gives (step (offered [0x05] State.reset)) (fun t => t == offered [0x05] State.reset) = true := by decide

-- T-IN-1
theorem test_inByte_stores : gives (step (offered [0x05, 0x06] (inRun Fmt.rgb24 2 1 #v[1, 2, 3, 4] 1)))
    (fun t => t.run.acc == #v[1, 0x05, 3, 4] && t.run.accN == 2 && t.env.inQ == [0x06]) = true := by decide
-- T-IN-3
theorem test_inByte_stalls : gives (step (inRun Fmt.rgb24 2 1 #v[1, 2, 3, 4] 1)) (fun t => t == inRun Fmt.rgb24 2 1 #v[1, 2, 3, 4] 1) = true := by decide

-- T-PX-1
theorem test_emitIdx4Hi : gives (step (withPal 1 0x0011_2233 (inRun Fmt.idx4 4 1 #v[0x12, 0, 0, 0] 1)))
    (fun t => t.env.outQ == [⟨0x3322_11FF, false, false⟩] && t.run.nib == 0x12 && t.run.nibph && t.run.accN == 0) = true := by decide
-- T-PAD-1, its fifth step: the unused low nibble is dropped (R136)
theorem test_emitIdx4Hi_odd_width : gives (step (withPal 3 0x0077_8899 (atPos 0 2 (inRun Fmt.idx4 3 1 #v[0x30, 0, 0, 0] 1))))
    (fun t => t.env.outQ == [⟨0x9988_77FF, true, true⟩] && t.run.fsm == .pad && t.run.padLeft == 2 && !t.run.nibph) = true := by decide
-- T-PX-2
theorem test_emitIdx4Lo : gives (step (rgba (withPal 2 0x0044_5566 (lowNibble 0x12 1 (inRun Fmt.idx4 4 1 #v[0x12, 0, 0, 0] 0)))))
    (fun t => t.env.outQ == [⟨0xFF66_5544, false, false⟩] && !t.run.nibph && t.run.col == 2) = true := by decide
-- T-PX-4
theorem test_emitIdx8 : gives (step (withPal 0xFF 0xAA11_2233 (inRun Fmt.idx8 2 1 #v[0xFF, 0, 0, 0] 1)))
    (fun t => t.env.outQ == [⟨0x3322_11FF, false, false⟩] && t.run.col == 1) = true := by decide
-- T-PX-6: an entry never written reads as PAL_INIT, whatever it is
theorem test_emitIdx8_unwritten : gives (step (withPal 0x08 0 (inRun Fmt.idx8 2 1 #v[0x07, 0, 0, 0] 1)))
    (fun t => t.env.outQ.length == 1) = true := by decide
-- T-PX-7, T-PX-8
theorem test_emitRgb24 : gives (step (inRun Fmt.rgb24 2 1 #v[0x01, 0x02, 0x03, 0] 3))
    (fun t => t.env.outQ == [⟨0x0102_03FF, false, false⟩]) = true := by decide
theorem test_emitRgb24_order1 : gives (step (rgba (inRun Fmt.rgb24 2 1 #v[0xFF, 0x00, 0x80, 0] 3)))
    (fun t => t.env.outQ == [⟨0xFFFF_0080, false, false⟩]) = true := by decide
-- T-PX-9, T-PX-10; the second also T-PAD-4: DONE in the step of the last beat
theorem test_emitRgb32_forced : gives (step (inRun Fmt.rgb32 2 1 #v[0x11, 0x22, 0x33, 0x44] 4))
    (fun t => t.env.outQ == [⟨0x1122_33FF, false, false⟩]) = true := by decide
theorem test_emitRgb32_passed : gives (step { rgba (atPos 0 1 (inRun Fmt.rgb32 2 1 #v[0x11, 0x22, 0x33, 0x44] 4)) with ctrl.alpha32Pass := true })
    (fun t => t.env.outQ == [⟨0x4411_2233, true, true⟩] && status t == 0x0000_0402) = true := by decide
-- T-PX-16, T-PX-13
theorem test_emitBf32 : gives (step (masked 0x0000_FFFF 0x0000_FF00 0x8000_0000 0x0000_0101 (inRun Fmt.bf32 2 1 #v[0x34, 0x12, 0x00, 0x81] 4)))
    (fun t => t.env.outQ == [⟨0x0112_3400, false, false⟩]) = true := by decide
theorem test_emitBf32_zero_masks : gives (step (inRun Fmt.bf32 2 1 #v[0x11, 0x22, 0x33, 0x44] 4))
    (fun t => t.env.outQ == [⟨0, false, false⟩]) = true := by decide
-- T-PAD-3, its last step; T-PAD-1, its sixth
theorem test_padSkip_ends_run : gives (step (offered [0x00] (inPadding Fmt.rgb24 1 2 1)))
    (fun t => status t == 0x0000_0302 && t.run.row == 2 && t.run.col == 0) = true := by decide
theorem test_padSkip_leaves_one : gives (step (offered [0xEE, 0xEE] (inPadding Fmt.idx4 3 1 2)))
    (fun t => status t == 0x0000_0101 && t.run.padLeft == 1 && t.env.inQ == [0xEE]) = true := by decide

/-! ### BUSX (section 6 of the vectors) -/

-- T-BUS-4, T-BUS-6
theorem test_rd_id : gives (step (turns [.host 0x0_03C_0000_0000] State.reset)) (fun t => t.env.rdLog == [0x455A_0100]) = true := by decide
theorem test_rd_misaligned : gives (step (turns [.host 0x0_03E_0000_0000] State.reset)) (fun t => t.env.rdLog == [0]) = true := by decide
-- T-BUS-13; P4, step 14
theorem test_wrCtrlSrst_does_not_start : gives (exec (.wrCtrlSrst 0x0000_0133) State.reset)
    (fun t => readValue t 0x000 == 0x0000_0130 && status t == 0) = true := by decide
theorem test_wrCtrlSrst_aborts : gives (exec (.wrCtrlSrst 0x0000_0002) (atPos 1 0 (inRun Fmt.rgb24 2 2 #v[7, 8, 6, 0] 2)))
    (fun t => status t == 0 && t.run.acc == #v[0, 0, 0, 0] && readValue t 0x02C == 0 && t.cfg.width == 2) = true := by decide
-- T-BUS-12, T-ST-24
theorem test_wrCtrlStart_reserved_bits : gives (exec (.wrCtrlStart 0xFFFF_FFFD) (configured 0x20 0 0 0 0))
    (fun t => readValue t 0x000 == 0x0000_0130 && status t == 0x0000_0402) = true := by decide
theorem test_wrCtrlStart_busy : gives (exec (.wrCtrlStart 0x0000_0001) (inRun Fmt.rgb24 2 2 #v[0, 0, 0, 0] 0))
    (fun t => status t == 0x0001_0301) = true := by decide
-- T-BUS-16, T-BUS-17
theorem test_wrCtrl_irqEn_while_busy : gives (exec (.wrCtrl 0x0000_0100) (inRun Fmt.rgb24 2 2 #v[0, 0, 0, 0] 0))
    (fun t => readValue t 0x000 == 0x0000_0100 && status t == 0x0000_0301) = true := by decide
theorem test_wrCtrl_order_while_busy : gives (exec (.wrCtrl 0x0000_0020) (inRun Fmt.rgb24 2 2 #v[0, 0, 0, 0] 0))
    (fun t => readValue t 0x000 == 0 && status t == 0x0001_0301) = true := by decide
-- T-BUS-19, T-BUS-20
theorem test_wrStatus_clears_errcode : gives (exec (.wrStatus 0x0000_0004) { State.reset with status.error := true, status.errcode := 2, status.fmt := 3 })
    (fun t => status t == 0x0000_0300) = true := by decide
theorem test_wrStatus_while_busy : gives (exec (.wrStatus 0xFFFF_FFFF) { inRun Fmt.rgb24 2 2 #v[0, 0, 0, 0] 0 with status.ignwr := true })
    (fun t => status t == 0x0000_0301) = true := by decide
-- T-BUS-8; T-BUS-14; sections 8's configuration writes
theorem test_wrBpp : gives (exec (.wrBpp 0x1234_0020) State.reset) (fun t => readValue t 0x008 == 0x0000_0020) = true := by decide
theorem test_wrCompression : gives (exec (.wrCompression 3) State.reset) (fun t => readValue t 0x00C == 3) = true := by decide
theorem test_wrWidth_while_busy : gives (exec (.wrWidth 5) (inRun Fmt.rgb24 2 2 #v[0, 0, 0, 0] 0))
    (fun t => readValue t 0x010 == 2 && status t == 0x0001_0301) = true := by decide
theorem test_wrHeight : gives (exec (.wrHeight 0xFFFF_FFFE) State.reset) (fun t => readValue t 0x014 == 0xFFFF_FFFE) = true := by decide
theorem test_wrMaskR : gives (exec (.wrMaskR 0x00FF_0000) State.reset) (fun t => readValue t 0x018 == 0x00FF_0000) = true := by decide
theorem test_wrMaskG : gives (exec (.wrMaskG 0x0000_FF00) State.reset) (fun t => readValue t 0x01C == 0x0000_FF00) = true := by decide
theorem test_wrMaskB : gives (exec (.wrMaskB 0x0000_00FF) State.reset) (fun t => readValue t 0x020 == 0x0000_00FF) = true := by decide
theorem test_wrMaskA : gives (exec (.wrMaskA 0xFF00_0000) State.reset) (fun t => readValue t 0x024 == 0xFF00_0000) = true := by decide
theorem test_wrSrcAvail : gives (exec (.wrSrcAvail 0x10) State.reset) (fun t => readValue t 0x028 == 0x10) = true := by decide
-- P2, step 7, its bytes by R50; T-BUS-15
theorem test_wrPal : gives (exec (.wrPal 1 0x0060_5040) State.reset)
    (fun t => readValue t 0x404 == 0x0060_5040 && t.pal.mem == [(0x404, 0x40), (0x405, 0x50), (0x406, 0x60), (0x407, 0x00)]) = true := by decide
theorem test_wrPal_while_busy : gives (exec (.wrPal 0 0x0000_0123) (withPal 0 7 (inRun Fmt.rgb24 2 2 #v[0, 0, 0, 0] 0)))
    (fun t => readValue t 0x400 == 7 && status t == 0x0001_0301) = true := by decide
-- T-BUS-10, T-BUS-9, T-BUS-11
theorem test_wrRoRow : gives (step (turns [.host 0x1_02C_0000_0005] (atPos 3 1 (inRun Fmt.idx8 2 5 #v[0, 0, 0, 0] 0))))
    (fun t => readValue t 0x02C == 3 && status t == 0x0000_0201) = true := by decide
theorem test_wrRoCol : gives (step (turns [.host 0x1_030_0000_0005] (atPos 3 1 (inRun Fmt.idx8 2 5 #v[0, 0, 0, 0] 0))))
    (fun t => readValue t 0x030 == 1 && status t == 0x0000_0201) = true := by decide
theorem test_wrRoId : gives (step (turns [.host 0x1_03C_0000_0000] State.reset)) (fun t => readValue t 0x03C == 0x455A_0100 && status t == 0) = true := by decide
theorem test_wrUnmapped : gives (step (turns [.host 0x1_401_0000_0007] (withPal 0 9 State.reset)))
    (fun t => readValue t 0x400 == 9 && readValue t 0x401 == 0 && status t == 0) = true := by decide

/-! ### Witnesses: the hypotheses of each statement are met, clause by clause -/

/-- A run in PIX of a 2 × 2 24-bit image. -/
def busyState : State := inRun Fmt.rgb24 2 2 #v[0, 0, 0, 0] 0

theorem busyState_inv : Inv busyState := by constructor <;> decide

/-- The last pixel byte but none of the padding of a one-column image: a full pixel. -/
def fullState : State := inRun Fmt.rgb24 1 2 #v[0x0A, 0x0B, 0x0C, 0] 3

theorem fullState_inv : Inv fullState := by constructor <;> decide

theorem witness_RstTurnResetsTheBlock : (turns [.rst] busyState).env.sched = .rst :: [] := rfl

-- one witness for each kind of turn, in a run and out of one
theorem witness_EveryStepKeepsTheInvariant_idle :
    ∃ s t : State, Inv s ∧ s = turns [.host 0x1_000_0000_0001] (configured 24 0 2 2 16) ∧ step s = .next t :=
  ⟨_, _, by constructor <;> decide, rfl, rfl⟩
theorem witness_EveryStepKeepsTheInvariant_busy : ∃ t : State, Inv fullState ∧ step fullState = .next t := ⟨_, fullState_inv, rfl⟩
theorem witness_InvariantStatesNeverStop : Inv (offered [0x0D] busyState) := by constructor <;> decide

theorem witness_DecodeOfEncode_boundary : (Instr.fmtNone 0xFFFF_FFFF 0xFFFF).wf = true ∧ (Instr.wrCtrlSrst 0xFFFF_FFFF).wf = true ∧
    (Instr.wrCtrlStart 0xFFFF_FFFD).wf = true ∧ (Instr.wrCtrl 0xFFFF_FFFC).wf = true ∧ (Instr.wrUnmapped 0xFFF 0).wf = true ∧
    (Instr.wrPal 0xFF 0).wf = true := by decide
theorem witness_EncodeOfDecode : decode (.fmtsel 0xFFFF_FFFF_FFFF) = .ok (.fmtNone 0xFFFF_FFFF 0xFFFF) ∧
    decode (.stepsel 0b1101111) = .ok (.padSkip true 7 true) ∧ decode (.busx 0x1_7FC_FFFF_FFFF) = .ok (.wrPal 255 0xFFFF_FFFF) := by decide
theorem witness_FormatDispatch : formatRow (decodeFmtsel (fmtselOf 3 32)) = some Fmt.bf32 ∧
    formatRow (decodeFmtsel (fmtselOf 0x100 8)) = none := by decide

theorem witness_StepRuns_host : (turns [.host 0x0_004_0000_0000] busyState).env.sched = .host 0x0_004_0000_0000 :: [] ∧
    decode (.busx 0x0_004_0000_0000) = .ok (.rd 0x004 0) := by decide
theorem witness_StepRuns_unpacker : (turns [.unpacker] busyState).env.sched = .unpacker :: [] ∧
    decode (.stepsel (stepsel (turns [.unpacker] busyState))) = .ok (.inByte Fmt.rgb24 false) := by decide
theorem witness_StepRuns_empty : fullState.env.sched = [] ∧ decode (.stepsel (stepsel fullState)) = .ok .emitRgb24 := by decide
theorem witness_SrcAndSinkTurns : (turns [.src 0x5A] busyState).env.sched = .src 0x5A :: [] ∧
    (turns [.srcFlush] busyState).env.sched = .srcFlush :: [] ∧
    (turns [.sink false] busyState).env.sched = .sink false :: [] := by decide
-- full pixels of format 0 and of format 6, and one of format RGB24 with S.nibph = 1; and one of a format with a row
theorem witness_UnreachableSelector : turnOf (inRun Fmt.none 1 1 #v[0, 0, 0, 0] 0) = .unpacker ∧
    turnOf (inRun 6#3 1 1 #v[0, 0, 0, 0] 0) = .unpacker ∧ turnOf fullState = .unpacker ∧
    turnOf { fullState with run.nibph := true } = .unpacker ∧ fullState.run.accN = need fullState.status.fmt true ∧
    fullState.status.fmt ≠ Fmt.idx4 := by decide

theorem witness_StartRuns : (Instr.wrCtrlStart 0x0000_0131).wf = true ∧ (configured 24 0 2 2 16).run.fsm = .idle := by decide
-- 16 bytes needed, 15 offered: one byte short; 16 offered: just enough
theorem witness_InvalidImage : formatRow .fmtRgb24 = some Fmt.rgb24 ∧ required Fmt.rgb24 (imageW (configured 24 0 2 2 15))
    (imageH (configured 24 0 2 2 15)) > (configured 24 0 2 2 15).cfg.srcAvail.toNat := by decide
theorem witness_EmptyImage_width : formatRow .fmtRgb24 = some Fmt.rgb24 ∧ imageW (configured 24 0 0 5 0) = 0 := by decide
theorem witness_EmptyImage_height : formatRow .fmtIdx4 = some Fmt.idx4 ∧ imageH (configured 4 0 5 0 0) = 0 := by decide
theorem witness_RunStart : formatRow .fmtRgb24 = some Fmt.rgb24 ∧ required Fmt.rgb24 (imageW (configured 24 0 2 2 16))
    (imageH (configured 24 0 2 2 16)) ≤ (configured 24 0 2 2 16).cfg.srcAvail.toNat ∧ 1 ≤ imageW (configured 24 0 2 2 16) ∧
    1 ≤ imageH (configured 24 0 2 2 16) := by decide
theorem witness_StartWhileBusy : (Instr.wrCtrlStart 0x0000_0101).wf = true ∧ busyState.run.fsm ≠ .idle := by decide
theorem witness_StartIgnores_and_Frame : (formatRow .fmtBf32).isSome ∧ Instr.fmtNone 1 8 = .fmtNone 1 8 := by decide
theorem witness_FailedStartRepeats : (formatRow .fmtRgb24).isSome ∧ ∃ t : State, exec .fmtRgb24 (configured 24 0 2 2 15) = .next t ∧
    t.status.error = true := ⟨rfl, _, rfl, by decide⟩
theorem witness_FailedStartRepeats_none : ∃ t : State, exec (.fmtNone 1 8) (configured 8 1 2 2 15) = .next t ∧ t.status.error = true :=
  ⟨_, rfl, by decide⟩

theorem witness_InByte_last : (offered [0x44, 0x55] (inRun Fmt.rgb32 1 1 #v[1, 2, 3, 0] 3)).env.inQ = 0x44 :: [0x55] ∧
    (inRun Fmt.rgb32 1 1 #v[1, 2, 3, 0] 3).run.accN.val < 4 := by decide
theorem witness_EmitHandsOverItsBeat : emitPixel fullState .emitRgb24 = some ⟨0xFF, 0x0C, 0x0B, 0x0A⟩ ∧
    fullState.env.sinkReady = true := by decide
-- EmitAdvancesThePosition: within a row; into padding; to the next row; to the end of the run
theorem witness_EmitAdvances_within : isEmit .emitRgb24 = true ∧ busyState.env.sinkReady = true ∧
    busyState.run.col.toNat + 1 ≠ imageW busyState := by decide
theorem witness_EmitAdvances_padding : fullState.run.col.toNat + 1 = imageW fullState ∧ padBytes fullState.status.fmt (imageW fullState) = 1 := by decide
theorem witness_EmitAdvances_nextRow : (inRun Fmt.rgb32 1 2 #v[0, 0, 0, 0] 4).run.col.toNat + 1 = imageW (inRun Fmt.rgb32 1 2 #v[0, 0, 0, 0] 4) ∧
    padBytes Fmt.rgb32 1 = 0 ∧ ((inRun Fmt.rgb32 1 2 #v[0, 0, 0, 0] 4).run.row + 1).toNat ≠ imageH (inRun Fmt.rgb32 1 2 #v[0, 0, 0, 0] 4) := by decide
theorem witness_EmitAdvances_end : (inRun Fmt.rgb32 1 1 #v[0, 0, 0, 0] 4).run.col.toNat + 1 = imageW (inRun Fmt.rgb32 1 1 #v[0, 0, 0, 0] 4) ∧
    ((inRun Fmt.rgb32 1 1 #v[0, 0, 0, 0] 4).run.row + 1).toNat = imageH (inRun Fmt.rgb32 1 1 #v[0, 0, 0, 0] 4) := by decide
-- PadSkipDiscardsOneByte: more padding left; the row's last; the run's last
theorem witness_PadSkip_more : (offered [0] (inPadding Fmt.idx4 3 1 2)).env.inQ = 0 :: [] ∧ (inPadding Fmt.idx4 3 1 2).run.padLeft ≠ 1 := by decide
theorem witness_PadSkip_row : (atPos 0 1 (inPadding Fmt.rgb24 1 2 1)).run.padLeft = 1 ∧
    ((atPos 0 1 (inPadding Fmt.rgb24 1 2 1)).run.row + 1).toNat ≠ imageH (inPadding Fmt.rgb24 1 2 1) := by decide
theorem witness_PadSkip_run : (inPadding Fmt.rgb24 1 2 1).run.padLeft = 1 ∧
    ((inPadding Fmt.rgb24 1 2 1).run.row + 1).toNat = imageH (inPadding Fmt.rgb24 1 2 1) := by decide
theorem witness_StalledTurn_src : Inv busyState ∧ turnOf busyState = .unpacker ∧ stalled busyState = true :=
  ⟨busyState_inv, by decide, by decide⟩
theorem witness_StalledTurn_sink : Inv (sinkBusy fullState) ∧ turnOf (sinkBusy fullState) = .unpacker ∧ stalled (sinkBusy fullState) = true :=
  ⟨by constructor <;> decide, by decide, by decide⟩
theorem witness_FrameOfTheStepRows : ∃ t : State, isStepRow .emitRgb24 = true ∧ exec .emitRgb24 fullState = .next t ∧ isEmit .emitRgb24 = true :=
  ⟨_, rfl, rfl, rfl⟩
theorem witness_FrameOfTheStepRows_byte : ∃ t : State, isStepRow (.inByte 3 false) = true ∧ exec (.inByte 3 false) (offered [1] busyState) = .next t ∧
    takesByte (.inByte 3 false) = true := ⟨_, rfl, rfl, rfl⟩

theorem witness_LowestSetBit_top : (0x8000_0000 : Word) ≠ 0 := by decide
theorem witness_BitfieldChannel_top : (0x8000_0000 : Word).getLsbD 31 = true ∧ ∀ j, j < 31 → (0x8000_0000 : Word).getLsbD j = false := by decide
theorem witness_DimensionsAreMagnitudes : (configured 8 0 0x8000_0000 1 0).cfg.width = 0x80000000 := by decide

-- the palette's unwritten entries 0 and 255; the unmapped addresses at the edges
theorem witness_ReadValue_unwritten : (∀ k, k < 4 → Memory.find (0x400 + 4 * 255 + k) (withPal 0 7 State.reset).pal.mem = none) ∧
    isMappedAddr 0x034 = false ∧ isMappedAddr 0x3FF = false ∧ isMappedAddr 0x401 = false ∧ isMappedAddr 0x800 = false ∧ isMappedAddr 0xFFF = false := by decide
theorem witness_CtrlWriteWhileIdle : (Instr.wrCtrl 0x0000_0130).wf = true ∧ State.reset.run.fsm = .idle := by decide
-- an unchanged pair, a changed ALPHA32_PASS, a changed OUT_ORDER
theorem witness_CtrlWriteWhileBusy : (Instr.wrCtrl 0x0000_0100).wf = true ∧ (Instr.wrCtrl 0x0000_0010).wf = true ∧
    (Instr.wrCtrl 0x0000_0020).wf = true ∧ busyState.run.fsm ≠ .idle := by decide
theorem witness_ConfigWrites_idle : (∃ f, configWrite (.wrBpp 0xFFFF_FFFF) = some f) ∧ (∃ f, configWrite (.wrSrcAvail 0) = some f) ∧
    State.reset.run.fsm = .idle := ⟨⟨_, rfl⟩, ⟨_, rfl⟩, rfl⟩
theorem witness_ConfigWrites_and_PaletteWrite_busy : (∃ f, configWrite (.wrMaskA 1) = some f) ∧ busyState.run.fsm ≠ .idle := ⟨⟨_, rfl⟩, by decide⟩
theorem witness_BusRead : isMappedAddr 0x034 = false ∧ (0x03E : CsrAddr).extractLsb' 0 2 ≠ 0 := by decide
theorem witness_PaletteWrite_bounds : State.reset.run.fsm = .idle ∧ (0x3FF < palByteAddr 0 ∧ palByteAddr 255 + 4 ≤ 0x800) ∧ (1 : Byte) ≠ 0 := by decide
theorem witness_Irq_ack : ∃ t : State, exec (.wrStatus 0x0000_0006) { State.reset with status.done := true, ctrl.irqEn := true } = .next t ∧
    (0x0000_0006 : Word).getLsbD 1 = true ∧ (0x0000_0006 : Word).getLsbD 2 = true := ⟨_, rfl, rfl, rfl⟩
theorem witness_Irq_ctrl : ∃ t : State, (Instr.wrCtrl 0x0000_0100).wf = true ∧
    exec (.wrCtrl 0x0000_0100) { State.reset with status.done := true } = .next t ∧ irq t = true := ⟨_, by decide, rfl, by decide⟩
theorem witness_Irq_srst : ∃ t : State, exec (.wrCtrlSrst 0x0000_0102) { State.reset with status.done := true, ctrl.irqEn := true } = .next t := ⟨_, rfl⟩

theorem witness_OnlyStartBeginsARun : ∃ t : State, step (turns [.host 0x1_000_0000_0001] (configured 24 0 2 2 16)) = .next t ∧
    (configured 24 0 2 2 16).run.fsm = .idle ∧ t.run.fsm ≠ .idle ∧ t.status.fmt ≠ (configured 24 0 2 2 16).status.fmt :=
  ⟨_, rfl, rfl, by decide, by decide⟩
theorem witness_FormatWritten_softReset : ∃ t : State, step (turns [.host 0x1_000_0000_0002] busyState) = .next t ∧ t.status.fmt ≠ busyState.status.fmt :=
  ⟨_, rfl, by decide⟩
theorem witness_ConfigurationConstant : ∃ t : State, step (turns [.host 0x1_010_0000_0005] busyState) = .next t ∧ busyState.run.fsm ≠ .idle ∧
    turnOf (turns [.host 0x1_010_0000_0005] busyState) ≠ .rst ∧ isSoftResetTurn (turnOf (turns [.host 0x1_010_0000_0005] busyState)) = false :=
  ⟨_, rfl, by decide, by decide, by decide⟩
theorem witness_AcceptedBeats : ∃ t : State, step fullState = .next t ∧ t.env.outQ ≠ fullState.env.outQ := ⟨_, rfl, by decide⟩
theorem witness_InputBytes : ∃ t : State, step (offered [1, 2] busyState) = .next t ∧ t.env.inQ = [2] := ⟨_, rfl, by decide⟩
theorem witness_InputBytes_flush : ∃ t : State, step (turns [.srcFlush] (offered [1, 2] busyState)) = .next t ∧ t.env.inQ = [] :=
  ⟨_, rfl, rfl⟩
theorem witness_Ignwr_rises : ∃ t : State, step (turns [.host 0x1_010_0000_0005] busyState) = .next t ∧ busyState.status.ignwr = false ∧ t.status.ignwr = true :=
  ⟨_, rfl, by decide, by decide⟩
theorem witness_Ignwr_falls : ∃ t : State, step (turns [.host 0x1_004_0001_0000] { busyState with status.ignwr := true }) = .next t ∧
    t.status.ignwr = false := ⟨_, rfl, by decide⟩
theorem witness_DoneRises_run : ∃ t : State, step (offered [0] (inPadding Fmt.rgb24 1 2 1)) = .next t ∧
    (inPadding Fmt.rgb24 1 2 1).status.done = false ∧ t.status.done = true := ⟨_, rfl, by decide, by decide⟩
theorem witness_DoneRises_empty : ∃ t : State, step (turns [.host 0x1_000_0000_0001] (configured 24 0 0 5 0)) = .next t ∧
    (configured 24 0 0 5 0).status.done = false ∧ t.status.done = true := ⟨_, rfl, by decide, by decide⟩
theorem witness_ErrorRises : ∃ t : State, step (turns [.host 0x1_000_0000_0001] (configured 16 0 1 1 100)) = .next t ∧
    (configured 16 0 1 1 100).status.error = false ∧ t.status.error = true := ⟨_, rfl, by decide, by decide⟩
theorem witness_Signals_byte : ∃ t : State, Inv (offered [9] busyState) ∧ turnOf (offered [9] busyState) = .unpacker ∧
    step (offered [9] busyState) = .next t ∧ inReady (offered [9] busyState) = true :=
  ⟨_, by constructor <;> decide, by decide, rfl, by decide⟩
theorem witness_Signals_beat : ∃ t : State, Inv fullState ∧ turnOf fullState = .unpacker ∧ step fullState = .next t ∧ outValid fullState = true :=
  ⟨_, fullState_inv, by decide, rfl, by decide⟩
theorem witness_EachUnpackerTurn_pix : Inv fullState ∧ fullState.run.fsm ≠ .idle ∧ turnOf fullState = .unpacker ∧ stalled fullState = false :=
  ⟨fullState_inv, by decide, by decide, by decide⟩
theorem witness_EachUnpackerTurn_last : Inv (offered [0] (inPadding Fmt.rgb24 1 2 1)) ∧ stalled (offered [0] (inPadding Fmt.rgb24 1 2 1)) = false ∧
    remaining (offered [0] (inPadding Fmt.rgb24 1 2 1)) = 1 := ⟨by constructor <;> decide, by decide, by decide⟩
/-- T-SRC-6's registers and stream: a 2 × 1 4-bit image, 4 bytes. -/
def readyToStart : State := withPal 1 0x0060_5040 (withPal 0 0x0030_2010 (offered [0x10, 0, 0, 0] (configured 4 0 2 1 4)))
theorem witness_RunEmitsTheImage : ∃ s : State, Inv readyToStart ∧ (Instr.wrCtrlStart 1).wf = true ∧ readyToStart.run.fsm = .idle ∧
    exec (.wrCtrlStart 1) readyToStart = .next s ∧ s.run.fsm = .pix ∧ s.env.sched = [] ∧ s.env.sinkReady = true ∧
    requiredNow s ≤ s.env.inQ.length :=
  ⟨_, by constructor <;> decide, by decide, rfl, rfl, by decide, rfl, rfl, by decide⟩
theorem witness_SrcOffersCommute : (offered [7] busyState).env.inQ ≠ [] := by decide
theorem witness_HostCommandsDecode : (0x0000_0131 : Word).getLsbD 1 = false := by decide
theorem witness_PaletteLoad : ∀ (buf : List Byte) (h : Header), h.compression = 0 → h.bpp = 4 →
    ∃ (s : State) (rest : List Turn), s.run.fsm = .idle ∧ s.env.sched = expandAll (paletteCmds buf h) ++ rest :=
  fun buf h _ _ => ⟨turns (expandAll (paletteCmds buf h)) State.reset, [], rfl, (List.append_nil _).symm⟩
theorem witness_PaletteLoad_header : ({ parseHeader [] with bpp := 8 } : Header).bpp = 8 ∧
    ({ parseHeader [] with bpp := 8 } : Header).compression = 0 := by decide
theorem witness_Rewind : ∃ (s : State) (rest : List Turn),
    s.env.sched = rewindTurns (headerBytes 1 24 0) (parseHeader (headerBytes 1 24 0)) ++ rest ∧ s.env.inQ ≠ [] :=
  ⟨turns (rewindTurns (headerBytes 1 24 0) (parseHeader (headerBytes 1 24 0))) (offered [7] busyState), [],
    (List.append_nil _).symm, by decide⟩

/-! ### HOST's checks (R168, R192): a 54-byte buffer whose palette would run to byte 58 -/

-- check 3 comes before the palette span: COMPRESSION 1 is NotSupported (R168)
theorem test_hostChecks_compression : hostChecks (headerBytes 1 4 1) 0 = .error .notSupported := by decide
-- a pair outside the table has no palette to check, and START refuses it (R164, R192)
theorem test_hostChecks_unmatchedPair : hostChecks (headerBytes 1 8 3) 0 = .ok (parseHeader (headerBytes 1 8 3)) := by decide
-- the palette span of an IDX4 image (R192 step 2)
theorem test_hostChecks_palette : hostChecks (headerBytes 1 4 0) 0 = .error .invalidImage := by decide
-- one plane, BPP 16: the last hypothesis of HostChecksFollowTheOrder; and two planes
theorem witness_HostChecks : hostChecks (headerBytes 1 16 0) 0 = .error .notSupported ∧ (parseHeader (headerBytes 1 16 0)).planes = 1 ∧
    hostChecks (headerBytes 2 24 0) 0 = .error .notSupported := by decide
-- an output of 3 bytes for one pixel (R190 step 2)
theorem witness_HostChecks_space : hostChecks (headerBytes 2 24 0 1) 3 = .error .notEnoughSpace := by decide

/-! ### The beats an image is to give, by hand (T-SRC-5, T-SRC-6) -/

-- the two beats of T-SRC-6 in order 0, of the function that RunEmitsTheImage states them with
theorem test_imageBeats_nibbles : imageBeats { readyToStart with status.fmt := Fmt.idx4 } [0x10, 0, 0, 0] =
    [⟨0x4050_60FF, false, false⟩, ⟨0x1020_30FF, true, true⟩] := by decide
-- T-SRC-5, OUT_ORDER = 0: the padding bytes are no pixels
theorem test_imageBeats_rgb24 : imageBeats { configured 24 0 2 0xFFFF_FFFE 16 with status.fmt := Fmt.rgb24 }
    [1, 2, 3, 4, 5, 6, 0, 0, 7, 8, 9, 0x0A, 0x0B, 0x0C, 0, 0] =
    [⟨0x0102_03FF, false, false⟩, ⟨0x0405_06FF, true, false⟩, ⟨0x0708_09FF, false, false⟩, ⟨0x0A0B_0CFF, true, true⟩] := by decide

end Sys2Proof.Tests
end

section
/-! PROOFS. The statements of spec/00_scope.md: what a step does with the turn it takes off the schedule (R9). -/

namespace Sys2Proof.Proofs

open Sys2Proof.Machine Sys2Proof.Laws

/-! ### Taking a turn off the schedule -/

theorem nextTurn_fst_cons {s : State} {t : Turn} {rest : List Turn} (h : s.env.sched = t :: rest) :
    (nextTurn s.env.sched).1 = t := by
  rw [h, nextTurn]

theorem nextTurn_fst_nil {s : State} (h : s.env.sched = []) : (nextTurn s.env.sched).1 = .unpacker := by
  rw [h, nextTurn]

theorem afterTurn_cons {s : State} {t : Turn} {rest : List Turn} (h : s.env.sched = t :: rest) :
    afterTurn s = { s with env.sched := rest } := by
  rw [afterTurn, h, nextTurn]

/-- An empty schedule has nothing to take off (log entry 1). -/
theorem afterTurn_nil {s : State} (h : s.env.sched = []) : afterTurn s = s := by
  rw [afterTurn, h, nextTurn, ← h]

/-! ### The step selected for UNPACKER (R79) -/

theorem step_unpacker_ok {s : State} {i : Instr} (h : (nextTurn s.env.sched).1 = .unpacker)
    (hi : decode (.stepsel (stepsel s)) = .ok i) : step s = exec i (afterTurn s) := by
  have hd : decodeStepsel (stepsel s) = .ok i := hi
  rw [step_unpacker h, hd]

/-! ### The settled statements -/

/-- Settles O10: HOST's turn by its transaction, UNPACKER's by the step selector, the latter also once the schedule is empty. -/
theorem stepRunsTheDecodedInstruction : Obligations.StepRunsTheDecodedInstruction := by
  intro s rest i
  refine ⟨fun w hsched hi => ?_, fun hsched hi => ?_, fun hsched hi => ?_⟩
  · have hd : decodeBusx w = i := Except.ok.inj hi
    rw [step_host hsched, hd]
  · rw [step_unpacker_ok (nextTurn_fst_cons hsched) hi, afterTurn_cons hsched]
  · rw [step_unpacker_ok (nextTurn_fst_nil hsched) hi, afterTurn_nil hsched]

/-- Settles O11: each of the three turns is its one stream operation, on the state past the turn. -/
theorem srcAndSinkTurnsTouchOnlyTheirStream : Obligations.SrcAndSinkTurnsTouchOnlyTheirStream :=
  fun _ _ => ⟨fun _ hsched => step_src hsched, fun hsched => step_srcFlush hsched, fun _ hsched => step_sink hsched⟩

end Sys2Proof.Proofs
end

section
/-! PROOFS. Every effect a turn can have, said once: of HOST's transactions by the row they decode to (R81), of UNPACKER by
the step selected (R79), and of the step by the turn it takes off the schedule (R9). -/

namespace Sys2Proof.Proofs

open Sys2Proof.Machine Sys2Proof.Laws

/-! ### HOST's transactions -/

/-- The rows of R81 whose writes are dropped, idle or busy (R152 to R154). -/
def writesNothing : Instr → Bool
  | .wrRoRow _ => true
  | .wrRoCol _ => true
  | .wrRoId _ => true
  | .wrUnmapped _ _ => true
  | _ => false

/-- What executing the instruction of a bus transaction makes of the state, with the guard of each case. -/
inductive BusEffect (s : State) : Instr → State → Prop
  | read (addr : CsrAddr) (data : Word) : BusEffect s (.rd addr data) (returnRead (readValue s addr) s)
  | softReset (data : Word) : BusEffect s (.wrCtrlSrst data) (softReset data s)
  | start (data : Word) (hidle : s.run.fsm = .idle) :
      BusEffect s (.wrCtrlStart data) (startCheck { s with ctrl := ctrlOfData data })
  | storeCtrl (data : Word) (hidle : s.run.fsm = .idle) : BusEffect s (.wrCtrl data) { s with ctrl := ctrlOfData data }
  | ctrlBusy {i : Instr} (data : Word) (hi : i = .wrCtrlStart data ∨ i = .wrCtrl data) (hbusy : s.run.fsm ≠ .idle) :
      BusEffect s i (writeCtrl data s)
  | ackStatus (data : Word) : BusEffect s (.wrStatus data) (writeStatus data s)
  | storeConfig {i : Instr} {store : CfgRegs → CfgRegs} (hi : configWrite i = some store) (hidle : s.run.fsm = .idle) :
      BusEffect s i { s with cfg := store s.cfg }
  | storePalette (entry : Byte) (data : Word) (hidle : s.run.fsm = .idle) :
      BusEffect s (.wrPal entry data) { s with pal := s.pal.write entry data }
  | ignoreBusy {i : Instr} (hi : (configWrite i).isSome ∨ ∃ entry data, i = .wrPal entry data) (hbusy : s.run.fsm ≠ .idle) :
      BusEffect s i (setIgnwr s)
  | writeNothing {i : Instr} (hi : writesNothing i = true) : BusEffect s i s

/-- Executing `i` answers a next state, by one of the bus effects. -/
def AnswersBus (s : State) (i : Instr) : Prop := ∃ t, exec i s = .next t ∧ BusEffect s i t

theorem answersBus_start (s : State) (data : Word) (h : data.getLsbD 0 = true) : AnswersBus s (.wrCtrlStart data) := by
  refine ⟨writeCtrl data s, rfl, ?_⟩
  by_cases hidle : s.run.fsm = .idle
  · rw [writeCtrl_idle data s hidle, if_pos h]
    exact .start data hidle
  · exact .ctrlBusy data (.inl rfl) hidle

theorem answersBus_ctrl (s : State) (data : Word) (h : data.getLsbD 0 ≠ true) : AnswersBus s (.wrCtrl data) := by
  refine ⟨writeCtrl data s, rfl, ?_⟩
  by_cases hidle : s.run.fsm = .idle
  · rw [writeCtrl_idle data s hidle, if_neg h]
    exact .storeCtrl data hidle
  · exact .ctrlBusy data (.inr rfl) hidle

/-- What the nine configuration writes share (R149): the register is stored in an idle block, and the write ignored in a
busy one. -/
theorem exec_configWrite {i : Instr} {store : CfgRegs → CfgRegs} (h : configWrite i = some store) (s : State) :
    exec i s = whenIdle (fun s => { s with cfg := store s.cfg }) s := by
  cases i <;> simp only [configWrite, Option.some.injEq, reduceCtorEq] at h <;> subst h <;> rfl

theorem answersBus_config {i : Instr} {store : CfgRegs → CfgRegs} (h : configWrite i = some store) (s : State) :
    AnswersBus s i := by
  rw [AnswersBus, exec_configWrite h]
  refine ⟨_, rfl, ?_⟩
  split
  · next hidle => exact .storeConfig h hidle
  · next hbusy => exact .ignoreBusy (.inl (by rw [h]; rfl)) hbusy

theorem answersBus_palette (s : State) (entry : Byte) (data : Word) : AnswersBus s (.wrPal entry data) := by
  refine ⟨_, rfl, ?_⟩
  split
  · next hidle => exact .storePalette entry data hidle
  · next hbusy => exact .ignoreBusy (.inr ⟨entry, data, rfl⟩) hbusy

theorem answersBus_ite {s : State} {c : Prop} [Decidable c] {i j : Instr} (hi : c → AnswersBus s i)
    (hj : ¬c → AnswersBus s j) : AnswersBus s (if c then i else j) := by
  split
  · next hc => exact hi hc
  · next hc => exact hj hc

theorem answersBus_writeCtrl (s : State) (data : Word) : AnswersBus s
    (if data.getLsbD 1 then .wrCtrlSrst data else if data.getLsbD 0 then .wrCtrlStart data else .wrCtrl data) :=
  answersBus_ite (fun _ => ⟨_, rfl, .softReset data⟩) fun _ =>
    answersBus_ite (answersBus_start s data) (answersBus_ctrl s data)

/-- The rows of R81 in their order: CTRL, STATUS, the nine configuration registers, the palette, the four rows that write
nothing. -/
theorem answersBus_decodeWrite (s : State) (addr : CsrAddr) (data : Word) : AnswersBus s (decodeWrite addr data) := by
  unfold decodeWrite
  refine answersBus_ite (fun _ => answersBus_writeCtrl s data) fun _ => ?_
  refine answersBus_ite (fun _ => ⟨_, rfl, .ackStatus data⟩) fun _ => ?_
  iterate 9 refine answersBus_ite (fun _ => answersBus_config rfl s) fun _ => ?_
  refine answersBus_ite (fun _ => answersBus_palette s (paletteEntry addr) data) fun _ => ?_
  iterate 3 refine answersBus_ite (fun _ => ⟨s, rfl, .writeNothing rfl⟩) fun _ => ?_
  exact ⟨s, rfl, .writeNothing rfl⟩

/-- A bus transaction always answers a next state (R144), by one of the bus effects. -/
theorem answersBus_decodeBusx (s : State) (w : Busx) : AnswersBus s (decodeBusx w) := by
  unfold decodeBusx
  split
  · exact answersBus_decodeWrite s (busxAddr w) (busxData w)
  · exact ⟨_, rfl, .read (busxAddr w) (busxData w)⟩

theorem busEffect_of_exec {s t : State} {w : Busx} (h : exec (decodeBusx w) s = .next t) :
    BusEffect s (decodeBusx w) t := by
  obtain ⟨t', h', heffect⟩ := answersBus_decodeBusx s w
  cases h'.symm.trans h
  exact heffect

/-! ### UNPACKER's steps -/

/-- What a turn of UNPACKER makes of the state, with the guard of each case. -/
inductive UnpackerEffect (s : State) : State → Prop
  | idle (hfsm : s.run.fsm = .idle) : UnpackerEffect s s
  | waitByte (hfsm : s.run.fsm = .pix ∧ full s = false ∨ s.run.fsm = .pad) (hin : s.env.inQ = []) : UnpackerEffect s s
  | waitSink (hfsm : s.run.fsm = .pix) (hfull : full s = true) (hsink : s.env.sinkReady = false) : UnpackerEffect s s
  | takeByte {b : Byte} {rest : List Byte} (hfsm : s.run.fsm = .pix) (hfull : full s = false)
      (hin : s.env.inQ = b :: rest) (hroom : s.run.accN.val + 1 < 5) :
      UnpackerEffect s (storeAcc b ⟨s.run.accN.val + 1, hroom⟩ { s with env.inQ := rest })
  | emit {i : Instr} {p : Pixel} (hfsm : s.run.fsm = .pix) (hfull : full s = true) (hsink : s.env.sinkReady = true)
      (hi : decodeStepsel (stepsel s) = .ok i) (hp : emitPixel s i = some p) :
      UnpackerEffect s (advance (outPush (beatOf p s) { s with run := emitNibble s.run i }))
  | skipByte {b : Byte} {rest : List Byte} (hfsm : s.run.fsm = .pad) (hin : s.env.inQ = b :: rest) :
      UnpackerEffect s (skipPad { s with env.inQ := rest })

/-- A full pixel selects an EMIT step (R79), which leaves the nibble phase set exactly after a high nibble (R114, R115). -/
theorem isEmit_of_full_pixel {fmt : FmtCode} {nibph : Bool} {i : Instr}
    (h : decodeStepsel (stepselOf true (fsmCode .pix) fmt nibph) = .ok i) :
    isEmit i = true ∧ ∀ r : Run, r.nibph = nibph → ((emitNibble r i).nibph = true ↔ fmt = Fmt.idx4 ∧ nibph = false) := by
  rw [stepsel_decode] at h
  simp only [Bool.true_eq_false, if_false] at h
  split_ifs at h with hidx4 hlo hlo <;> cases h
  all_goals simp [isEmit, emitNibble, hlo, hidx4]

theorem unpackerEffect_inByte {s t : State} {fmt : FmtCode} {nibph : Bool} (hfsm : s.run.fsm = .pix) (hfull : full s = false)
    (h : exec (.inByte fmt nibph) s = .next t) : UnpackerEffect s t := by
  change execInByte s = .next t at h
  cases hin : s.env.inQ with
  | nil =>
    rw [execInByte, inPop_nil hin] at h
    cases h
    exact .waitByte (.inl ⟨hfsm, hfull⟩) hin
  | cons b rest =>
    rw [execInByte, inPop_cons hin] at h
    by_cases hroom : s.run.accN.val + 1 < 5
    · cases (dif_pos hroom).symm.trans h
      exact .takeByte hfsm hfull hin hroom
    · cases (dif_neg hroom).symm.trans h

theorem unpackerEffect_padSkip {s t : State} {u nibph : Bool} {fmt : FmtCode} (hfsm : s.run.fsm = .pad)
    (h : exec (.padSkip u fmt nibph) s = .next t) : UnpackerEffect s t := by
  change execPadSkip s = .next t at h
  cases hin : s.env.inQ with
  | nil =>
    rw [execPadSkip, inPop_nil hin] at h
    cases h
    exact .waitByte (.inr hfsm) hin
  | cons b rest =>
    rw [execPadSkip, inPop_cons hin] at h
    cases h
    exact .skipByte hfsm hin

theorem unpackerEffect_emit {s t : State} {i : Instr} (hfsm : s.run.fsm = .pix) (hfull : full s = true)
    (hi : decodeStepsel (stepsel s) = .ok i) (hemit : isEmit i = true) (h : exec i s = .next t) : UnpackerEffect s t := by
  cases hsink : s.env.sinkReady with
  | false =>
    cases (exec_emit_stalled hemit hsink).symm.trans h
    exact .waitSink hfsm hfull hsink
  | true =>
    obtain ⟨p, hp⟩ := emitPixel_of_isEmit s hemit
    cases (exec_emit hp hsink).symm.trans h
    exact .emit hfsm hfull hsink hi hp

theorem unpackerEffect_of_exec {s t : State} {i : Instr} (hi : decodeStepsel (stepsel s) = .ok i) (h : exec i s = .next t) :
    UnpackerEffect s t := by
  have hsel := hi
  rw [stepsel] at hsel
  cases hfsm : s.run.fsm with
  | idle =>
    rw [hfsm, stepsel_decode] at hsel
    cases hsel
    cases h
    exact .idle hfsm
  | pad =>
    rw [hfsm, stepsel_decode] at hsel
    cases hsel
    exact unpackerEffect_padSkip hfsm h
  | pix =>
    cases hfull : full s with
    | false =>
      rw [hfsm, hfull, stepsel_decode] at hsel
      cases hsel
      exact unpackerEffect_inByte hfsm hfull h
    | true =>
      rw [hfsm, hfull] at hsel
      exact unpackerEffect_emit hfsm hfull hi (isEmit_of_full_pixel hsel).1 h

/-! ### The step -/

/-- What a step makes of the state, by the turn it takes off the schedule. -/
inductive StepEffect (s t : State) : Prop
  | host (w : Busx) (hturn : turnOf s = .host w) (h : BusEffect (afterTurn s) (decodeBusx w) t)
  | unpacker (hturn : turnOf s = .unpacker) (h : UnpackerEffect (afterTurn s) t)
  | src (b : Byte) (hturn : turnOf s = .src b) (h : t = srcOffer b (afterTurn s))
  | srcFlush (hturn : turnOf s = .srcFlush) (h : t = srcFlush (afterTurn s))
  | sink (ready : Bool) (hturn : turnOf s = .sink ready) (h : t = sinkSet ready (afterTurn s))
  | rst (hturn : turnOf s = .rst) (h : t = hardReset (afterTurn s))

theorem unpackerEffect_of_step {s t : State} (hturn : turnOf s = .unpacker) (h : step s = .next t) :
    UnpackerEffect (afterTurn s) t := by
  rw [step_unpacker hturn] at h
  cases hi : decodeStepsel (stepsel s) with
  | ok i =>
    rw [hi] at h
    exact unpackerEffect_of_exec (s := afterTurn s) hi h
  | error e =>
    rw [hi] at h
    cases h

theorem stepEffect_of_step {s t : State} (h : step s = .next t) : StepEffect s t := by
  have hturn := step_by_turn s
  rw [h] at hturn
  cases hs : turnOf s with
  | host w =>
    rw [hs] at hturn
    exact .host w hs (busEffect_of_exec hturn.symm)
  | src b =>
    rw [hs] at hturn
    exact .src b hs (Host.Outcome.next.inj hturn)
  | srcFlush =>
    rw [hs] at hturn
    exact .srcFlush hs (Host.Outcome.next.inj hturn)
  | sink ready =>
    rw [hs] at hturn
    exact .sink ready hs (Host.Outcome.next.inj hturn)
  | rst =>
    rw [hs] at hturn
    exact .rst hs (Host.Outcome.next.inj hturn)
  | unpacker => exact .unpacker hs (unpackerEffect_of_step hs h)

end Sys2Proof.Proofs
end

section
/-! PROOFS. The invariant of spec/10_state.md rule R47: shown phase by phase, then kept by every turn. -/

namespace Sys2Proof.Proofs

open Sys2Proof.Machine Sys2Proof.Laws

/-! ### The invariant in each run phase -/

/-- STATUS as it is during a run (R47 item 1, R24). -/
structure RunningStatus (st : Status) : Prop where
  fmt_ne : st.fmt ≠ Fmt.none
  fmt_le : st.fmt.toNat ≤ 5
  done : st.done = false
  error : st.error = false
  errcode : st.errcode = 0

/-- What Inv asks of STATUS in every phase (R24, R91, R163). -/
structure StatusOk (st : Status) : Prop where
  fmt_le : st.fmt.toNat ≤ 5
  errcode : (st.error = true ↔ st.errcode ≠ 0) ∧ st.errcode ≠ 3
  exclusive : ¬(st.done = true ∧ st.error = true)

theorem statusOk_of_no_error {st : Status} (hfmt : st.fmt.toNat ≤ 5) (he : st.error = false) (hcode : st.errcode = 0) :
    StatusOk st :=
  ⟨hfmt, by simp [he, hcode], by simp [he]⟩

theorem RunningStatus.ok {st : Status} (h : RunningStatus st) : StatusOk st :=
  statusOk_of_no_error h.fmt_le h.error h.errcode

/-- A run that has come to its end sets DONE (R133). -/
theorem RunningStatus.done_ok {st : Status} (h : RunningStatus st) : StatusOk { st with done := true } :=
  statusOk_of_no_error h.fmt_le h.error h.errcode

theorem statusOk_of_inv {s : State} (h : Inv s) : StatusOk s.status := ⟨h.fmt_code, h.errcode, h.exclusive⟩

theorem runningStatus_of_inv {s : State} (h : Inv s) (hbusy : s.run.fsm ≠ .idle) : RunningStatus s.status := by
  obtain ⟨hfmt, hdone, herror, hcode⟩ := h.busy_status hbusy
  exact ⟨hfmt, h.fmt_code, hdone, herror, hcode⟩

theorem nibph_of_not_pix {s : State} (h : Inv s) (hfsm : s.run.fsm ≠ .pix) : s.run.nibph = false :=
  Bool.eq_false_iff.2 fun hn => hfsm (h.nibph hn).2

theorem inv_idle {t : State} (hfsm : t.run.fsm = .idle) (hnib : t.run.nibph = false) (hst : StatusOk t.status)
    (hpal : Memory.wf t.pal.mem = true) : Inv t where
  busy_status h := absurd hfsm h
  fmt_code := hst.fmt_le
  pix h := by simp [hfsm] at h
  pad h := by simp [hfsm] at h
  pad_row h := by simp [hfsm] at h
  nibph h := by simp [hnib] at h
  parity h := by simp [hfsm] at h
  errcode := hst.errcode
  exclusive := hst.exclusive
  palette := hpal

theorem inv_pix {t : State} (hfsm : t.run.fsm = .pix) (hst : RunningStatus t.status)
    (hacc : t.run.accN ≤ need t.status.fmt t.run.nibph) (hcol : t.run.col.toNat < imageW t) (hrow : t.run.row.toNat < imageH t)
    (hnib : t.run.nibph = true → t.status.fmt = Fmt.idx4)
    (hparity : t.status.fmt = Fmt.idx4 → (t.run.nibph = true ↔ t.run.col.toNat % 2 = 1))
    (hpal : Memory.wf t.pal.mem = true) : Inv t where
  busy_status _ := ⟨hst.fmt_ne, hst.done, hst.error, hst.errcode⟩
  fmt_code := hst.fmt_le
  pix _ := ⟨hacc, hcol, hrow⟩
  pad h := by simp [hfsm] at h
  pad_row h := by simp [hfsm] at h
  nibph h := ⟨hnib h, hfsm⟩
  parity _ := hparity
  errcode := hst.ok.errcode
  exclusive := hst.ok.exclusive
  palette := hpal

theorem inv_pad {t : State} (hfsm : t.run.fsm = .pad) (hst : RunningStatus t.status) (hleft : 1 ≤ t.run.padLeft.toNat)
    (hcol : t.run.col.toNat = imageW t) (hrow : t.run.row.toNat < imageH t) (hw : 0 < imageW t) (hacc : t.run.accN = 0)
    (hnib : t.run.nibph = false) (hpal : Memory.wf t.pal.mem = true) : Inv t where
  busy_status _ := ⟨hst.fmt_ne, hst.done, hst.error, hst.errcode⟩
  fmt_code := hst.fmt_le
  pix h := by simp [hfsm] at h
  pad _ := ⟨hleft, hcol, hrow⟩
  pad_row _ := ⟨hw, hacc⟩
  nibph h := by simp [hnib] at h
  parity h := by simp [hfsm] at h
  errcode := hst.ok.errcode
  exclusive := hst.ok.exclusive
  palette := hpal

/-- A state in PIX at the start of a stored row of at least one pixel. -/
theorem inv_rowStart {t : State} (hfsm : t.run.fsm = .pix) (hst : RunningStatus t.status) (hcol : t.run.col = 0)
    (hacc : t.run.accN = 0) (hnib : t.run.nibph = false) (hw : 0 < imageW t) (hrow : t.run.row.toNat < imageH t)
    (hpal : Memory.wf t.pal.mem = true) : Inv t :=
  inv_pix hfsm hst (by simp [hacc]) (by simpa [hcol] using hw) hrow (by simp [hnib]) (by simp [hnib, hcol]) hpal

/-- The invariant looks at neither CTRL nor the other agents. -/
theorem inv_of_same {s t : State} (h : Inv s) (hst : t.status = s.status) (hcfg : t.cfg = s.cfg) (hpal : t.pal = s.pal)
    (hrun : t.run = s.run) : Inv t := by
  obtain ⟨ctrl, status, cfg, pal, run, env⟩ := t
  subst hst hcfg hpal hrun
  exact { h with }

theorem inv_env {s : State} (h : Inv s) (env : Env) : Inv { s with env := env } := inv_of_same h rfl rfl rfl rfl

theorem inv_ctrl {s : State} (h : Inv s) (ctrl : Ctrl) : Inv { s with ctrl := ctrl } := inv_of_same h rfl rfl rfl rfl

/-- IGNWR may take any value (R148). -/
theorem inv_ignwr {s : State} (h : Inv s) (ignwr : Bool) : Inv { s with status.ignwr := ignwr } := { h with }

/-! ### Reset (R46, R183) -/

theorem inv_reset : Inv State.reset :=
  inv_idle rfl rfl (statusOk_of_no_error (by decide) rfl rfl) rfl

theorem inv_hardReset (s : State) : Inv (hardReset s) := by
  have hst := statusOk_of_inv inv_reset
  exact inv_idle rfl rfl hst rfl

/-! ### START (R99 to R103) -/

theorem inv_startSelected {s : State} {fmt : FmtCode} (h : Inv s) (hidle : s.run.fsm = .idle) (hfmt : fmt.toNat ≤ 5) :
    Inv (startSelected fmt s) := by
  have hnib : s.run.nibph = false := nibph_of_not_pix h (by simp [hidle])
  rcases startSelected_cases fmt s with ⟨_, hs⟩ | ⟨_, _, hs⟩ | ⟨_, _, hs⟩ | ⟨hne, _, hw, hh, hs⟩ <;> rw [hs]
  · exact inv_idle hidle hnib ⟨by simp [failedStatus], by simp [failedStatus], by simp [failedStatus]⟩ h.palette
  · exact inv_idle hidle hnib ⟨hfmt, by simp [failedStatus], by simp [failedStatus]⟩ h.palette
  · exact inv_idle hidle rfl (statusOk_of_no_error hfmt rfl rfl) h.palette
  · exact inv_rowStart rfl ⟨hne, hfmt, rfl, rfl, rfl⟩ rfl rfl rfl (Nat.pos_of_ne_zero hw) (Nat.pos_of_ne_zero hh) h.palette

/-! ### The other bus writes -/

theorem inv_ackDone {s : State} (h : Inv s) (data : Word) : Inv (ackDone data s) := by
  unfold ackDone
  split
  · exact { h with
      busy_status := fun hbusy => ⟨(runningStatus_of_inv h hbusy).fmt_ne, rfl, (runningStatus_of_inv h hbusy).error,
        (runningStatus_of_inv h hbusy).errcode⟩
      exclusive := by simp }
  · exact h

theorem inv_clearError {s : State} (h : Inv s) : Inv (clearError s) :=
  { h with
    busy_status := fun hbusy => ⟨(runningStatus_of_inv h hbusy).fmt_ne, (runningStatus_of_inv h hbusy).done, rfl, rfl⟩
    errcode := by simp
    exclusive := by simp }

theorem inv_ackError {s : State} (h : Inv s) (data : Word) : Inv (ackError data s) := by
  unfold ackError
  split
  · exact inv_clearError h
  · exact h

theorem inv_ackIgnwr {s : State} (h : Inv s) (data : Word) : Inv (ackIgnwr data s) := by
  unfold ackIgnwr
  split
  · exact inv_ignwr h false
  · exact h

theorem inv_writeCtrl_busy {s : State} (h : Inv s) (data : Word) (hbusy : s.run.fsm ≠ .idle) : Inv (writeCtrl data s) := by
  rw [writeCtrl_busy data s hbusy]
  exact inv_ctrl (inv_ignwr h _) _

/-- An idle block may have any configuration and any palette in canonical form. -/
theorem inv_idle_registers {s : State} (h : Inv s) (hidle : s.run.fsm = .idle) (cfg : CfgRegs) {pal : Palette}
    (hpal : Memory.wf pal.mem = true) : Inv { s with cfg := cfg, pal := pal } := by
  have hnib := nibph_of_not_pix h (by simp [hidle])
  have hst := statusOk_of_inv h
  exact inv_idle hidle hnib hst hpal

theorem inv_softReset {s : State} (h : Inv s) (data : Word) : Inv (softReset data s) := by
  have hst := statusOk_of_inv inv_reset
  exact inv_idle rfl rfl hst h.palette

theorem inv_busEffect {s t : State} {i : Instr} (h : Inv s) (ht : BusEffect s i t) : Inv t := by
  cases ht with
  | read addr data => exact inv_env h _
  | softReset data => exact inv_softReset h data
  | start data hidle => exact inv_startSelected (inv_ctrl h _) hidle (fmtOf_le _ _)
  | storeCtrl data hidle => exact inv_ctrl h _
  | ctrlBusy data hi hbusy => exact inv_writeCtrl_busy h data hbusy
  | ackStatus data => exact inv_ackIgnwr (inv_ackError (inv_ackDone h data) data) data
  | storeConfig hi hidle => exact inv_idle_registers h hidle _ h.palette
  | storePalette entry data hidle => exact inv_idle_registers h hidle s.cfg (wf_palette_write s.pal entry data h.palette)
  | ignoreBusy hi hbusy => exact inv_ignwr h true
  | writeNothing hi => exact h

/-! ### UNPACKER's steps -/

/-- Rows and columns of an image count without wrapping, since W and H are at most 2^31 (R97). -/
theorem toNat_succ_of_lt {v : Word} {n : Nat} (hn : n ≤ 2 ^ 31) (hv : v.toNat < n) : (v + 1).toNat = v.toNat + 1 := by
  have h1 : (1 : Word).toNat = 1 := rfl
  rw [BitVec.toNat_add, h1]
  omega

theorem toNat_succ_lt {v : Word} {n : Nat} (hn : n ≤ 2 ^ 31) (hv : v.toNat < n) (hne : (v + 1).toNat ≠ n) :
    (v + 1).toNat < n := by
  rw [toNat_succ_of_lt hn hv] at hne ⊢
  exact lt_of_le_of_ne hv hne

@[simp] theorem emitNibble_fsm (r : Run) (i : Instr) : (emitNibble r i).fsm = r.fsm := by cases i <;> rfl
@[simp] theorem emitNibble_row (r : Run) (i : Instr) : (emitNibble r i).row = r.row := by cases i <;> rfl
@[simp] theorem emitNibble_col (r : Run) (i : Instr) : (emitNibble r i).col = r.col := by cases i <;> rfl

/-- A byte that is taken leaves S.accN at most need (R47 item 2, R110). -/
theorem inv_storeAcc {s : State} (h : Inv s) (hfsm : s.run.fsm = .pix) (hfull : full s = false) (b : Byte)
    {n : Fin 5} (hn : n.val = s.run.accN.val + 1) : Inv (storeAcc b n s) := by
  obtain ⟨hacc, hcol, hrow⟩ := h.pix hfsm
  have hne : s.run.accN ≠ need s.status.fmt s.run.nibph := by simpa [full] using hfull
  have hlt := Fin.lt_def.1 (lt_of_le_of_ne hacc hne)
  have hsucc : n ≤ need s.status.fmt s.run.nibph := Fin.le_def.2 (hn ▸ hlt)
  have hst := runningStatus_of_inv h (by simp [hfsm])
  exact inv_pix hfsm hst hsucc hcol hrow (fun hn => (h.nibph hn).1) (h.parity hfsm) h.palette

/-- `advance()` from a pixel of the image, the nibble phase being already that of the next column (R130, R136). -/
theorem inv_advance {s : State} (hfsm : s.run.fsm = .pix) (hst : RunningStatus s.status) (hcol : s.run.col.toNat < imageW s)
    (hrow : s.run.row.toNat < imageH s) (hnib : s.run.nibph = true → s.status.fmt = Fmt.idx4)
    (hparity : s.status.fmt = Fmt.idx4 → (s.run.nibph = true ↔ (s.run.col.toNat + 1) % 2 = 1))
    (hpal : Memory.wf s.pal.mem = true) : Inv (advance s) := by
  have hw : 0 < imageW s := Nat.zero_lt_of_lt hcol
  rcases advance_cases s with ⟨hne, hs⟩ | ⟨_, hp, hs⟩ | ⟨_, _, hr, hs⟩ | ⟨_, _, _, hs⟩ <;> rw [hs]
  · have hnext : (s.run.col + 1).toNat = s.run.col.toNat + 1 := toNat_succ_of_lt (magnitude_le _) hcol
    refine inv_pix hfsm hst (Fin.zero_le _) ?_ hrow hnib ?_ hpal
    · exact hnext ▸ lt_of_le_of_ne hcol hne
    · exact hnext ▸ hparity
  · exact inv_pad rfl hst (by rw [toNat_padBytes]; exact Nat.pos_of_ne_zero hp) (toNat_ofNat_imageW s) hrow hw rfl rfl hpal
  · exact inv_rowStart rfl hst rfl rfl rfl hw (toNat_succ_lt (magnitude_le _) hrow hr) hpal
  · exact inv_idle rfl rfl hst.done_ok hpal

/-- An EMIT step flips the nibble phase of an IDX4 row and leaves it clear in any other format (R114, R115). -/
theorem inv_emit {s : State} {i : Instr} (h : Inv s) (hfsm : s.run.fsm = .pix) (hfull : full s = true)
    (hi : decodeStepsel (stepsel s) = .ok i) (beat : Beat) :
    Inv (advance (outPush beat { s with run := emitNibble s.run i })) := by
  obtain ⟨_, hcol, hrow⟩ := h.pix hfsm
  rw [stepsel, hfull, hfsm] at hi
  obtain ⟨_, hnib⟩ := isEmit_of_full_pixel hi
  have hst := runningStatus_of_inv h (by simp [hfsm])
  have hnib := hnib s.run rfl
  refine inv_advance (by simpa using hfsm) hst (by rw [outPush_run, emitNibble_col]; exact hcol)
    (by rw [outPush_run, emitNibble_row]; exact hrow) (fun hn => (hnib.1 hn).1) (fun hfmt => ?_) h.palette
  have hparity := h.parity hfsm hfmt
  rw [outPush_run, emitNibble_col, hnib, ← Bool.not_eq_true, hparity]
  constructor
  · rintro ⟨_, heven⟩
    omega
  · intro hodd
    exact ⟨hfmt, by omega⟩

theorem inv_skipPad {s : State} (h : Inv s) (hfsm : s.run.fsm = .pad) : Inv (skipPad s) := by
  obtain ⟨_, hcol, hrow⟩ := h.pad hfsm
  obtain ⟨hw, hacc⟩ := h.pad_row hfsm
  have hst := runningStatus_of_inv h (by simp [hfsm])
  have hnib := nibph_of_not_pix h (by simp [hfsm])
  rcases skipPad_cases s with ⟨hmore, hs⟩ | ⟨_, hr, hs⟩ | ⟨_, _, hs⟩ <;> rw [hs]
  · have hleft : 1 ≤ (s.run.padLeft - 1).toNat := Nat.pos_of_ne_zero fun h0 => hmore (BitVec.eq_of_toNat_eq h0)
    exact inv_pad hfsm hst hleft hcol hrow hw hacc hnib h.palette
  · exact inv_rowStart rfl hst rfl hacc hnib hw (toNat_succ_lt (magnitude_le _) hrow hr) h.palette
  · exact inv_idle rfl hnib hst.done_ok h.palette

theorem inv_unpackerEffect {s t : State} (h : Inv s) (ht : UnpackerEffect s t) : Inv t := by
  cases ht with
  | idle hfsm => exact h
  | waitByte hfsm hin => exact h
  | waitSink hfsm hfull hsink => exact h
  | @takeByte b rest hfsm hfull hin hroom =>
    have h' := inv_env h { s.env with inQ := rest }
    exact inv_storeAcc h' hfsm hfull b rfl
  | emit hfsm hfull hsink hi hp => exact inv_emit h hfsm hfull hi _
  | skipByte hfsm hin => exact inv_skipPad (inv_env h _) hfsm

/-! ### The settled statements -/

/-- Settles O3: the base case of the invariant. -/
theorem resetMeetsTheInvariant : Obligations.ResetMeetsTheInvariant := inv_reset

/-- Settles O4, by the turn that the step takes: a bus transaction, UNPACKER's step, a stream turn, or `rst`. -/
theorem everyStepKeepsTheInvariant : Obligations.EveryStepKeepsTheInvariant := by
  intro s t hs hstep
  have h := inv_env hs (afterTurn s).env
  cases stepEffect_of_step hstep with
  | host w _ ht => exact inv_busEffect h ht
  | unpacker _ ht => exact inv_unpackerEffect h ht
  | src b _ ht => exact ht ▸ inv_env h _
  | srcFlush _ ht => exact ht ▸ inv_env h _
  | sink ready _ ht => exact ht ▸ inv_env h _
  | rst _ ht => exact ht ▸ inv_hardReset _

end Sys2Proof.Proofs
end

section
/-! PROOFS. The other statements of spec/10_state.md: the values after reset, what may write STATUS.FMT and the configuration,
and what `in_ready` and `out_valid` say of UNPACKER's turn. -/

namespace Sys2Proof.Proofs

open Sys2Proof.Machine Sys2Proof.Laws

/-! ### What UNPACKER leaves alone (R39, R45) -/

/-- No step of UNPACKER changes CTRL, the configuration, the palette or the format. -/
theorem unpackerEffect_frame {s t : State} (h : UnpackerEffect s t) :
    t.ctrl = s.ctrl ∧ t.cfg = s.cfg ∧ t.pal = s.pal ∧ t.status.fmt = s.status.fmt := by
  cases h with
  | idle hfsm => exact ⟨rfl, rfl, rfl, rfl⟩
  | waitByte hfsm hin => exact ⟨rfl, rfl, rfl, rfl⟩
  | waitSink hfsm hfull hsink => exact ⟨rfl, rfl, rfl, rfl⟩
  | takeByte hfsm hfull hin hroom => exact ⟨rfl, rfl, rfl, rfl⟩
  | @emit i p hfsm hfull hsink hi hp =>
    obtain ⟨hctrl, hcfg, hpal, _, hstatus⟩ := advance_frame (outPush (beatOf p s) { s with run := emitNibble s.run i })
    refine ⟨hctrl, hcfg, hpal, ?_⟩
    rcases hstatus with hstatus | hstatus <;> rw [hstatus] <;> rfl
  | @skipByte b rest hfsm hin =>
    rcases skipPad_cases { s with env.inQ := rest } with ⟨_, hs⟩ | ⟨_, _, hs⟩ | ⟨_, _, hs⟩ <;> rw [hs] <;>
      exact ⟨rfl, rfl, rfl, rfl⟩

/-- A STATUS write changes flags only (R150). -/
theorem writeStatus_frame (data : Word) (s : State) :
    (writeStatus data s).ctrl = s.ctrl ∧ (writeStatus data s).cfg = s.cfg ∧ (writeStatus data s).pal = s.pal ∧
    (writeStatus data s).status.fmt = s.status.fmt := by
  unfold writeStatus ackIgnwr ackError ackDone
  split_ifs <;> exact ⟨rfl, rfl, rfl, rfl⟩

/-! ### STATUS.FMT (R25) -/

theorem writeCtrl_busy_fmt {s : State} (data : Word) (hbusy : s.run.fsm ≠ .idle) :
    (writeCtrl data s).status.fmt = s.status.fmt := by
  rw [writeCtrl_busy data s hbusy]

/-- Of the bus transactions only START and a soft reset write STATUS.FMT. -/
theorem busEffect_fmt {s t : State} {i : Instr} (h : BusEffect s i t) :
    t.status.fmt = s.status.fmt ∨ (∃ data, i = .wrCtrlStart data) ∨ ∃ data, i = .wrCtrlSrst data := by
  cases h with
  | start data hidle => exact .inr (.inl ⟨data, rfl⟩)
  | softReset data => exact .inr (.inr ⟨data, rfl⟩)
  | ctrlBusy data hi hbusy => exact .inl (writeCtrl_busy_fmt data hbusy)
  | ackStatus data =>
    obtain ⟨_, _, _, hfmt⟩ := writeStatus_frame data s
    exact .inl hfmt
  | _ => exact .inl rfl

theorem isStartTurn_host {w : Busx} {data : Word} (h : decodeBusx w = .wrCtrlStart data) : isStartTurn (.host w) = true := by
  rw [isStartTurn, h]

theorem isSoftResetTurn_host {w : Busx} {data : Word} (h : decodeBusx w = .wrCtrlSrst data) :
    isSoftResetTurn (.host w) = true := by
  rw [isSoftResetTurn, h]

/-! ### The configuration during a run (R71, R142) -/

/-- In a busy block no bus transaction changes the configuration or the palette, and only a soft reset changes ALPHA32_PASS or
OUT_ORDER. -/
theorem busEffect_busy {s t : State} {i : Instr} (hbusy : s.run.fsm ≠ .idle) (h : BusEffect s i t) :
    t.cfg = s.cfg ∧ t.pal = s.pal ∧
    ((∀ data, i ≠ .wrCtrlSrst data) → t.ctrl.alpha32Pass = s.ctrl.alpha32Pass ∧ t.ctrl.outOrder = s.ctrl.outOrder) := by
  cases h with
  | softReset data => exact ⟨rfl, rfl, fun hne => absurd rfl (hne data)⟩
  | start data hidle => exact absurd hidle hbusy
  | storeCtrl data hidle => exact absurd hidle hbusy
  | storeConfig hi hidle => exact absurd hidle hbusy
  | storePalette entry data hidle => exact absurd hidle hbusy
  | ctrlBusy data hi _ =>
    rw [writeCtrl_busy data s hbusy]
    exact ⟨rfl, rfl, fun _ => ⟨rfl, rfl⟩⟩
  | ackStatus data =>
    obtain ⟨hctrl, hcfg, hpal, _⟩ := writeStatus_frame data s
    exact ⟨hcfg, hpal, fun _ => ⟨by rw [hctrl], by rw [hctrl]⟩⟩
  | read addr data => exact ⟨rfl, rfl, fun _ => ⟨rfl, rfl⟩⟩
  | ignoreBusy hi _ => exact ⟨rfl, rfl, fun _ => ⟨rfl, rfl⟩⟩
  | writeNothing hi => exact ⟨rfl, rfl, fun _ => ⟨rfl, rfl⟩⟩

/-! ### `in_ready` and `out_valid` (R42) -/

theorem signals_idle {s : State} (hfsm : s.run.fsm = .idle) : inReady s = false ∧ outValid s = false := by
  simp [inReady, outValid, hfsm]

theorem signals_pad {s : State} (hfsm : s.run.fsm = .pad) : inReady s = true ∧ outValid s = false := by
  simp [inReady, outValid, hfsm]

/-- Within a pixel the block asks for a byte while S.accN is below need, and has a pixel once it is need (R47 item 2). -/
theorem signals_pix {s : State} (h : Inv s) (hfsm : s.run.fsm = .pix) : inReady s = !full s ∧ outValid s = full s := by
  obtain ⟨hacc, _, _⟩ := h.pix hfsm
  have hlt : s.run.accN < need s.status.fmt s.run.nibph ↔ s.run.accN ≠ need s.status.fmt s.run.nibph :=
    lt_iff_le_and_ne.trans (and_iff_right hacc)
  constructor
  · by_cases hn : s.run.accN = need s.status.fmt s.run.nibph <;> simp [inReady, full, hfsm, hlt, hn]
  · simp [outValid, hfsm]

theorem skipPad_env (s : State) : (skipPad s).env = s.env := by
  rcases skipPad_cases s with ⟨_, hs⟩ | ⟨_, _, hs⟩ | ⟨_, _, hs⟩ <;> rw [hs]

/-- A step of UNPACKER takes a byte exactly when `in_ready` and one is offered, and hands over a beat exactly when `out_valid`
and SINK is ready. -/
theorem unpackerEffect_signals {s t : State} (h : Inv s) (ht : UnpackerEffect s t) :
    (s.env.inQ.length = t.env.inQ.length + 1 ↔ inReady s = true ∧ s.env.inQ ≠ []) ∧
    (t.env.outQ.length = s.env.outQ.length + 1 ↔ outValid s = true ∧ s.env.sinkReady = true) := by
  cases ht with
  | idle hfsm =>
    obtain ⟨hin, hout⟩ := signals_idle hfsm
    simp [hin, hout]
  | waitByte hfsm hempty =>
    have hout : outValid s = false := by
      rcases hfsm with ⟨hpix, hfull⟩ | hpad
      · rw [(signals_pix h hpix).2, hfull]
      · exact (signals_pad hpad).2
    simp [hempty, hout]
  | waitSink hfsm hfull hsink =>
    obtain ⟨hin, _⟩ := signals_pix h hfsm
    simp [hin, hfull, hsink]
  | takeByte hfsm hfull hbyte hroom =>
    obtain ⟨hin, hout⟩ := signals_pix h hfsm
    simp [hin, hout, hfull, hbyte]
  | @emit i p hfsm hfull hsink hi hp =>
    obtain ⟨hin, hout⟩ := signals_pix h hfsm
    obtain ⟨_, _, _, henv, _⟩ := advance_frame (outPush (beatOf p s) { s with run := emitNibble s.run i })
    simp [hin, hout, hfull, hsink, henv]
  | skipByte hfsm hbyte =>
    obtain ⟨hin, hout⟩ := signals_pad hfsm
    simp [hin, hout, hbyte, skipPad_env]

/-! ### The settled statements -/

/-- Settles O1: the registers' read values by evaluation, the palette as one that nothing has written. -/
theorem resetLeavesTheStatedValues : Obligations.ResetLeavesTheStatedValues := by
  have hctrl : readValue State.reset 0x000 = 0 := by decide
  have hstatus : readValue State.reset 0x004 = 0 := by decide
  have hid : readValue State.reset 0x03C = 0x455A0100 := by decide
  exact ⟨hctrl, hstatus, rfl, rfl, hid, rfl, rfl, rfl, rfl, read_unwritten 0⟩

/-- Settles O45: of the turns of HOST only those two write STATUS.FMT, and UNPACKER, SRC and SINK never do. -/
theorem formatWrittenOnlyByStartAndResets : Obligations.FormatWrittenOnlyByStartAndResets := by
  intro s t hstep hfmt
  cases stepEffect_of_step hstep with
  | host w hturn h =>
    rw [hturn]
    rcases busEffect_fmt h with hsame | ⟨data, hstart⟩ | ⟨data, hsrst⟩
    · exact absurd hsame hfmt
    · exact .inl (isStartTurn_host hstart)
    · exact .inr (.inl (isSoftResetTurn_host hsrst))
  | unpacker _ h =>
    obtain ⟨_, _, _, hsame⟩ := unpackerEffect_frame h
    exact absurd hsame hfmt
  | src b _ h => exact absurd (h ▸ rfl) hfmt
  | srcFlush _ h => exact absurd (h ▸ rfl) hfmt
  | sink ready _ h => exact absurd (h ▸ rfl) hfmt
  | rst hturn _ => exact .inr (.inr hturn)

/-- Settles O46: a busy block ignores HOST's writes of these registers (R148), and no other agent but `rst` has one. -/
theorem configurationConstantDuringARun : Obligations.ConfigurationConstantDuringARun := by
  intro s t hstep hbusy hrst
  cases stepEffect_of_step hstep with
  | host w hturn h =>
    obtain ⟨hcfg, hpal, hctrl⟩ := busEffect_busy (s := afterTurn s) hbusy h
    refine ⟨hcfg, hpal, fun hnot => hctrl fun data hsrst => ?_⟩
    rw [hturn, isSoftResetTurn_host hsrst] at hnot
    exact Bool.noConfusion hnot
  | unpacker _ h =>
    obtain ⟨hctrl, hcfg, hpal, _⟩ := unpackerEffect_frame h
    exact ⟨hcfg, hpal, fun _ => by rw [hctrl]; exact ⟨rfl, rfl⟩⟩
  | src b _ h => exact h ▸ ⟨rfl, rfl, fun _ => ⟨rfl, rfl⟩⟩
  | srcFlush _ h => exact h ▸ ⟨rfl, rfl, fun _ => ⟨rfl, rfl⟩⟩
  | sink ready _ h => exact h ▸ ⟨rfl, rfl, fun _ => ⟨rfl, rfl⟩⟩
  | rst hturn _ => exact absurd hturn hrst

/-- Settles O52: the signals do not look at the schedule, so they are those of the state past the turn. -/
theorem signalsSayWhatUnpackerDoes : Obligations.SignalsSayWhatUnpackerDoes := fun s _ hs hturn hstep =>
  unpackerEffect_signals (s := afterTurn s) (inv_env hs _) (unpackerEffect_of_step hturn hstep)

end Sys2Proof.Proofs
end

section
/-! PROOFS. The statements of spec/20_memory.md about the two streams: what a step does to the bytes offered (R52) and to the
beats accepted (R53, R197). -/

namespace Sys2Proof.Proofs

open Sys2Proof.Machine Sys2Proof.Laws

/-! ### HOST does not reach the streams -/

theorem writeStatus_env (data : Word) (s : State) : (writeStatus data s).env = s.env := by
  unfold writeStatus ackIgnwr ackError ackDone
  split_ifs <;> rfl

/-- No bus transaction takes or offers a byte, or hands over or recalls a beat: a read only adds to what HOST has read, and
START and a soft reset keep what stands in the streams. -/
theorem busEffect_streams {s t : State} {i : Instr} (h : BusEffect s i t) :
    t.env.inQ = s.env.inQ ∧ t.env.outQ = s.env.outQ := by
  cases h with
  | start data hidle =>
    obtain ⟨_, _, _, henv, _⟩ := startSelected_frame (fmtOf s.cfg.compression s.cfg.bpp) { s with ctrl := ctrlOfData data }
    rw [startCheck, henv]
    exact ⟨rfl, rfl⟩
  | ctrlBusy data hi hbusy =>
    rw [writeCtrl_busy data s hbusy]
    exact ⟨rfl, rfl⟩
  | ackStatus data =>
    rw [writeStatus_env]
    exact ⟨rfl, rfl⟩
  | _ => exact ⟨rfl, rfl⟩

/-! ### UNPACKER moves one byte or one beat at most -/

/-- What a turn of UNPACKER does to the other agents' part of the state: nothing, or it takes the head byte within a run, or in
PIX it hands one beat to a ready SINK. -/
theorem unpackerEffect_env {s t : State} (h : UnpackerEffect s t) :
    t.env = s.env ∨
    (s.run.fsm ≠ .idle ∧ ∃ b rest, s.env.inQ = b :: rest ∧ t.env = { s.env with inQ := rest }) ∨
    (s.run.fsm = .pix ∧ s.env.sinkReady = true ∧ ∃ beat, t.env = { s.env with outQ := s.env.outQ ++ [beat] }) := by
  cases h with
  | idle hfsm => exact .inl rfl
  | waitByte hfsm hin => exact .inl rfl
  | waitSink hfsm hfull hsink => exact .inl rfl
  | takeByte hfsm hfull hin hroom => exact .inr (.inl ⟨by simp [hfsm], _, _, hin, rfl⟩)
  | skipByte hfsm hin => exact .inr (.inl ⟨by simp [hfsm], _, _, hin, skipPad_env _⟩)
  | @emit i p hfsm hfull hsink hi hp =>
    obtain ⟨_, _, _, henv, _⟩ := advance_frame (outPush (beatOf p s) { s with run := emitNibble s.run i })
    exact .inr (.inr ⟨hfsm, hsink, beatOf p s, henv⟩)

/-! ### The settled statements -/

/-- Settles O47: of all turns only UNPACKER's reaches the accepted beats, and it can only add one at the end. -/
theorem acceptedBeatsAreFinal : Obligations.AcceptedBeatsAreFinal := by
  intro s t hstep
  cases stepEffect_of_step hstep with
  | host w _ h => exact .inl (busEffect_streams h).2
  | unpacker hturn h =>
    rcases unpackerEffect_env h with henv | ⟨_, _, _, _, henv⟩ | ⟨hpix, hsink, beat, henv⟩
    · exact .inl (by rw [henv]; rfl)
    · exact .inl (by rw [henv]; rfl)
    · exact .inr ⟨hturn, hpix, hsink, beat, by rw [henv]; rfl⟩
  | src b _ h => exact .inl (h ▸ rfl)
  | srcFlush _ h => exact .inl (h ▸ rfl)
  | sink ready _ h => exact .inl (h ▸ rfl)
  | rst _ h => exact .inl (h ▸ rfl)

/-- Settles O48: the bytes on offer are SRC's to add to and to withdraw, and UNPACKER's to take from; HOST, SINK and `rst` leave
them. -/
theorem inputBytesTakenInOrder : Obligations.InputBytesTakenInOrder := by
  intro s t hstep
  cases stepEffect_of_step hstep with
  | host w _ h => exact .inl (busEffect_streams h).1
  | unpacker hturn h =>
    rcases unpackerEffect_env h with henv | ⟨hbusy, b, rest, hin, henv⟩ | ⟨_, _, _, henv⟩
    · exact .inl (by rw [henv]; rfl)
    · exact .inr (.inr (.inr ⟨hturn, hbusy, b, by rw [henv]; exact hin⟩))
    · exact .inl (by rw [henv]; rfl)
  | src b hturn h => exact .inr (.inl ⟨b, hturn, h ▸ rfl⟩)
  | srcFlush hturn h => exact .inr (.inr (.inl ⟨hturn, h ▸ rfl⟩))
  | sink ready _ h => exact .inl (h ▸ rfl)
  | rst _ h => exact .inl (h ▸ rfl)

end Sys2Proof.Proofs
end

section
/-! PROOFS. The statements of spec/30_encoding.md: each decoder against the encoder in both directions, space by space (R75,
R79, R81), the selectors no STEPSEL row matches, and the words of the host commands (R93). -/

namespace Sys2Proof.Proofs

open Sys2Proof.Machine Sys2Proof.Laws

/-! ### FMTSEL (R75) -/

/-- The FMTSEL rows read off the two fields, in the decoder's order. -/
theorem decodeFmtsel_fmtselOf (c : Word) (b : BitVec 16) : decodeFmtsel (fmtselOf c b) =
    if c = 0 ∧ b = 4 then .fmtIdx4
    else if c = 0 ∧ b = 8 then .fmtIdx8
    else if c = 0 ∧ b = 24 then .fmtRgb24
    else if c = 0 ∧ b = 32 then .fmtRgb32
    else if c = 3 ∧ b = 32 then .fmtBf32
    else .fmtNone c b := by
  have idx4 : 0x000000000004#48 = fmtselOf 0 4 := by decide
  have idx8 : 0x000000000008#48 = fmtselOf 0 8 := by decide
  have rgb24 : 0x000000000018#48 = fmtselOf 0 24 := by decide
  have rgb32 : 0x000000000020#48 = fmtselOf 0 32 := by decide
  have bf32 : 0x000000030020#48 = fmtselOf 3 32 := by decide
  simp only [decodeFmtsel, idx4, idx8, rgb24, rgb32, bf32, fmtselOf_inj, fmtselOf_compression, fmtselOf_bpp]

/-- A pair is none of the five formats exactly when the decoder's five comparisons fail. -/
theorem isFormatPair_eq_false_iff (c : Word) (b : BitVec 16) : isFormatPair c b = false ↔
    ¬(c = 0 ∧ b = 4) ∧ ¬(c = 0 ∧ b = 8) ∧ ¬(c = 0 ∧ b = 24) ∧ ¬(c = 0 ∧ b = 32) ∧ ¬(c = 3 ∧ b = 32) := by
  simp only [isFormatPair, Bool.or_eq_false_iff, Bool.and_eq_false_imp, beq_iff_eq, beq_eq_false_iff_ne, not_and]
  tauto

theorem decodeFmtsel_of_not_formatPair {c : Word} {b : BitVec 16} (h : isFormatPair c b = false) :
    decodeFmtsel (fmtselOf c b) = .fmtNone c b := by
  obtain ⟨hidx4, hidx8, hrgb24, hrgb32, hbf32⟩ := (isFormatPair_eq_false_iff c b).mp h
  rw [decodeFmtsel_fmtselOf, if_neg hidx4, if_neg hidx8, if_neg hrgb24, if_neg hrgb32, if_neg hbf32]

/-! ### BUSX (R81) -/

@[simp] theorem decodeBusx_read (a : CsrAddr) (d : Word) : decodeBusx (busxOf false a d) = .rd a d := by
  simp [decodeBusx]

@[simp] theorem decodeBusx_write (a : CsrAddr) (d : Word) : decodeBusx (busxOf true a d) = decodeWrite a d := by
  simp [decodeBusx]

/-- The three rows of a CTRL write, by DATA[1] and then DATA[0]. -/
theorem decodeWrite_ctrl (d : Word) : decodeWrite 0x000 d =
    if d.getLsbD 1 then .wrCtrlSrst d else if d.getLsbD 0 then .wrCtrlStart d else .wrCtrl d := rfl

theorem decodeWrite_srst {d : Word} (hsrst : d.getLsbD 1 = true) : decodeWrite 0x000 d = .wrCtrlSrst d := by
  rw [decodeWrite_ctrl, if_pos hsrst]

theorem decodeWrite_start {d : Word} (hsrst : d.getLsbD 1 = false) (hstart : d.getLsbD 0 = true) :
    decodeWrite 0x000 d = .wrCtrlStart d := by
  rw [decodeWrite_ctrl, if_neg (Bool.not_eq_true _ ▸ hsrst), if_pos hstart]

theorem decodeWrite_plainCtrl {d : Word} (hsrst : d.getLsbD 1 = false) (hstart : d.getLsbD 0 = false) :
    decodeWrite 0x000 d = .wrCtrl d := by
  rw [decodeWrite_ctrl, if_neg (Bool.not_eq_true _ ▸ hsrst), if_neg (Bool.not_eq_true _ ▸ hstart)]

/-- No row above WR_PAL claims an aligned address of the palette window. -/
theorem decodeWrite_of_isPaletteAddr {a : CsrAddr} (h : isPaletteAddr a = true) (d : Word) :
    decodeWrite a d = .wrPal (paletteEntry a) d := by
  unfold decodeWrite
  iterate 11 rw [if_neg (by rintro rfl; exact absurd h (by decide))]
  rw [if_pos h]

theorem decodeWrite_paletteAddr (e : Byte) (d : Word) : decodeWrite (paletteAddr e) d = .wrPal e d := by
  rw [decodeWrite_of_isPaletteAddr (isPaletteAddr_paletteAddr e), paletteEntry_paletteAddr]

/-- Well-formedness and the decoder mean the same palette window. -/
theorem inPaletteWindow_eq (a : CsrAddr) : inPaletteWindow a = isPaletteAddr a := rfl

theorem decodeWrite_of_not_mapped {a : CsrAddr} (h : isMappedAddr a = false) (d : Word) :
    decodeWrite a d = .wrUnmapped a d := by
  simp only [isMappedAddr, inPaletteWindow_eq, Bool.or_eq_false_iff, beq_eq_false_iff_ne] at h
  simp only [decodeWrite, h, Bool.false_eq_true, if_false]

theorem decode_write (a : CsrAddr) (d : Word) : decode (.busx (busxOf true a d)) = .ok (decodeWrite a d) :=
  congrArg Except.ok (decodeBusx_write a d)

/-! ### Decoding an encoded instruction -/

/-- Settles O6: by the instruction's row. Well-formedness rules out the rows above a low-priority one, and fixes the bits of
DATA that the CTRL rows compare. -/
theorem decodeOfEncodeIsTheInstruction : Obligations.DecodeOfEncodeIsTheInstruction := by
  intro i hwf
  cases i with
  | fmtNone c b =>
    have hpair : isFormatPair c b = false := by simpa [Instr.wf] using hwf
    exact congrArg Except.ok (decodeFmtsel_of_not_formatPair hpair)
  | idle full fmt nibph => exact stepsel_decode full .idle fmt nibph
  | inByte fmt nibph => exact stepsel_decode false .pix fmt nibph
  | padSkip full fmt nibph => exact stepsel_decode full .pad fmt nibph
  | rd addr data => exact congrArg Except.ok (decodeBusx_read addr data)
  | wrCtrlSrst data =>
    have hsrst : data.getLsbD 1 = true := hwf
    rw [encode, decode_write, decodeWrite_srst hsrst]
  | wrCtrlStart data =>
    obtain ⟨hsrst, hstart⟩ := (Bool.and_eq_true _ _).mp hwf
    rw [encode, decode_write, decodeWrite_start ((Bool.not_eq_true' _).mp hsrst) hstart]
  | wrCtrl data =>
    obtain ⟨hsrst, hstart⟩ := (Bool.and_eq_true _ _).mp hwf
    rw [encode, decode_write, decodeWrite_plainCtrl ((Bool.not_eq_true' _).mp hsrst) ((Bool.not_eq_true' _).mp hstart)]
  | wrPal entry data => rw [encode, decode_write, decodeWrite_paletteAddr]
  | wrUnmapped addr data =>
    have hmapped : isMappedAddr addr = false := by simpa [Instr.wf] using hwf
    rw [encode, decode_write, decodeWrite_of_not_mapped hmapped]
  | wrStatus data | wrBpp data | wrCompression data | wrWidth data | wrHeight data | wrMaskR data | wrMaskG data
  | wrMaskB data | wrMaskA data | wrSrcAvail data | wrRoRow data | wrRoCol data | wrRoId data => exact decode_write _ data
  | fmtIdx4 | fmtIdx8 | fmtRgb24 | fmtRgb32 | fmtBf32
  | emitIdx4Hi | emitIdx4Lo | emitIdx8 | emitRgb24 | emitRgb32 | emitBf32 => rfl

/-! ### Encoding a decoded word -/

/-- The word is the code of an instruction that some row admits. -/
def IsCodeOf (w : Selector) (i : Instr) : Prop := i.wf = true ∧ encode i = w

/-- One row of a decoder: its own instruction if the row matches, else what the later rows give. -/
theorem isCodeOf_ite {w : Selector} {c : Prop} [Decidable c] {i j : Instr} (hi : c → IsCodeOf w i)
    (hj : ¬c → IsCodeOf w j) : IsCodeOf w (if c then i else j) := by
  split
  · next hc => exact hi hc
  · next hc => exact hj hc

theorem isCodeOf_formatRow {c c' : Word} {b b' : BitVec 16} {i : Instr} (hi : IsCodeOf (.fmtsel (fmtselOf c' b')) i)
    (h : c = c' ∧ b = b') : IsCodeOf (.fmtsel (fmtselOf c b)) i := by
  obtain ⟨rfl, rfl⟩ := h
  exact hi

theorem isCodeOf_decodeFmtsel (w : Fmtsel) : IsCodeOf (.fmtsel w) (decodeFmtsel w) := by
  rw [← fmtselOf_fields w, decodeFmtsel_fmtselOf]
  refine isCodeOf_ite (isCodeOf_formatRow ⟨rfl, rfl⟩) fun hidx4 => ?_
  refine isCodeOf_ite (isCodeOf_formatRow ⟨rfl, rfl⟩) fun hidx8 => ?_
  refine isCodeOf_ite (isCodeOf_formatRow ⟨rfl, rfl⟩) fun hrgb24 => ?_
  refine isCodeOf_ite (isCodeOf_formatRow ⟨rfl, rfl⟩) fun hrgb32 => ?_
  refine isCodeOf_ite (isCodeOf_formatRow ⟨rfl, rfl⟩) fun hbf32 => ⟨?_, rfl⟩
  rw [Instr.wf, (isFormatPair_eq_false_iff _ _).mpr ⟨hidx4, hidx8, hrgb24, hrgb32, hbf32⟩]
  rfl

@[simp] theorem stepselOf_fields : ∀ w : Stepsel,
    stepselOf (w.getLsbD 6) (w.extractLsb' 4 2) (w.extractLsb' 1 3) (w.getLsbD 0) = w := by decide

theorem isCodeOf_of_decodeStepsel {w : Stepsel} {i : Instr} (h : decodeStepsel w = .ok i) : IsCodeOf (.stepsel w) i := by
  have hw := stepselOf_fields w
  simp only [decodeStepsel] at h
  split_ifs at h with hidle hpix hhi hlo hidx8 hrgb24 hrgb32 hbf32 hpad <;> cases h
  · exact ⟨rfl, by rw [encode, ← hidle, hw]⟩
  · exact ⟨rfl, by rw [encode, ← hpix.1, ← hpix.2, hw]⟩
  · exact ⟨rfl, hhi ▸ rfl⟩
  · exact ⟨rfl, hlo ▸ rfl⟩
  · exact ⟨rfl, hidx8 ▸ rfl⟩
  · exact ⟨rfl, hrgb24 ▸ rfl⟩
  · exact ⟨rfl, hrgb32 ▸ rfl⟩
  · exact ⟨rfl, hbf32 ▸ rfl⟩
  · exact ⟨rfl, by rw [encode, ← hpad, hw]⟩

theorem isCodeOf_writeRow {a k : CsrAddr} {d : Word} {i : Instr} (hi : IsCodeOf (.busx (busxOf true k d)) i) (h : a = k) :
    IsCodeOf (.busx (busxOf true a d)) i := h ▸ hi

theorem isCodeOf_ctrlRows (d : Word) : IsCodeOf (.busx (busxOf true 0x000 d))
    (if d.getLsbD 1 then .wrCtrlSrst d else if d.getLsbD 0 then .wrCtrlStart d else .wrCtrl d) := by
  refine isCodeOf_ite (fun hsrst => ⟨hsrst, rfl⟩) fun hsrst => ?_
  refine isCodeOf_ite (fun hstart => ⟨?_, rfl⟩) fun hstart => ⟨?_, rfl⟩
  · simp only [Instr.wf, hsrst, hstart, Bool.not_false, Bool.and_self]
  · simp only [Instr.wf, hsrst, hstart, Bool.not_false, Bool.and_self]

theorem isCodeOf_decodeWrite (a : CsrAddr) (d : Word) : IsCodeOf (.busx (busxOf true a d)) (decodeWrite a d) := by
  unfold decodeWrite
  refine isCodeOf_ite (isCodeOf_writeRow (isCodeOf_ctrlRows d)) fun _ => ?_
  iterate 10 refine isCodeOf_ite (isCodeOf_writeRow ⟨rfl, rfl⟩) fun _ => ?_
  refine isCodeOf_ite (fun hpal => ⟨rfl, by rw [encode, paletteAddr_paletteEntry a hpal]⟩) fun _ => ?_
  iterate 3 refine isCodeOf_ite (isCodeOf_writeRow ⟨rfl, rfl⟩) fun _ => ?_
  have hmapped : isMappedAddr a = false := by
    simp only [isMappedAddr, inPaletteWindow_eq, Bool.or_eq_false_iff, beq_eq_false_iff_ne, ne_eq, *,
      not_false_eq_true, and_self]
  exact ⟨by rw [Instr.wf, hmapped]; rfl, rfl⟩

theorem isCodeOf_decodeBusx (w : Busx) : IsCodeOf (.busx w) (decodeBusx w) := by
  rw [← busxOf_fields w]
  cases busxWe w with
  | false => exact decodeBusx_read _ _ ▸ ⟨rfl, rfl⟩
  | true => exact decodeBusx_write _ _ ▸ isCodeOf_decodeWrite _ _

/-- Settles O7: in each encoding space by the decoder's rows; only STEPSEL has words that no row matches. -/
theorem encodeOfDecodeIsTheWord : Obligations.EncodeOfDecodeIsTheWord := by
  intro w i h
  cases w with
  | fmtsel w => exact Except.ok.inj h ▸ isCodeOf_decodeFmtsel w
  | stepsel w => exact isCodeOf_of_decodeStepsel h
  | busx w => exact Except.ok.inj h ▸ isCodeOf_decodeBusx w

/-! ### Selectors that no row matches (R79) -/

/-- The format codes that are no format: NONE and the two that are never produced (R76). -/
theorem not_a_format_iff : ∀ fmt : FmtCode,
    fmt ≠ Fmt.idx4 ∧ fmt ≠ Fmt.idx8 ∧ fmt ≠ Fmt.rgb24 ∧ fmt ≠ Fmt.rgb32 ∧ fmt ≠ Fmt.bf32 ↔
      fmt = Fmt.none ∨ 6 ≤ fmt.toNat := by decide

/-- The one kind of selector outside the table that a run phase can give: a full pixel in the low-nibble phase of another
format than IDX4, or of no format. -/
theorem decodeStepsel_error_iff (full : Bool) (fsm : Fsm) (fmt : FmtCode) (nibph : Bool) :
    decodeStepsel (stepselOf full (fsmCode fsm) fmt nibph) = .error .unreachableStepSelector ↔
      fsm = .pix ∧ full = true ∧ fmt ≠ Fmt.idx4 ∧ (nibph = true ∨ fmt = Fmt.none ∨ 6 ≤ fmt.toNat) := by
  rw [stepsel_decode, ← not_a_format_iff]
  cases fsm with
  | idle => simp
  | pad => simp
  | pix =>
    cases full with
    | false => simp
    | true =>
      simp only [Bool.true_eq_false, if_false]
      split_ifs <;> simp_all

/-- The only fault an instruction raises is IN_BYTE's (log entry 9): the other is the step's own. -/
theorem fault_of_exec {i : Instr} {s : State} {f : Fault} (h : exec i s = .fault f) : f = .assemblyBufferFull := by
  cases i with
  | inByte fmt nibph =>
    rw [exec, execInByte] at h
    split at h
    · cases h
    split at h <;> cases h
    rfl
  | padSkip full fmt nibph =>
    rw [exec, execPadSkip] at h
    split at h <;> cases h
  | _ => cases h

theorem step_unpacker_unreachable_iff {s : State} (hturn : turnOf s = .unpacker) :
    step s = .fault .unreachableStepSelector ↔ decodeStepsel (stepsel s) = .error .unreachableStepSelector := by
  rw [step_unpacker hturn]
  cases decodeStepsel (stepsel s) with
  | error e => cases e; simp
  | ok i =>
    refine ⟨fun h => ?_, fun h => by cases h⟩
    cases fault_of_exec h

/-- Settles O12: the fault is exactly a selector that decodes to no row, since no step it does select raises it. -/
theorem unreachableSelectorFaults : Obligations.UnreachableSelectorFaults := by
  intro s hturn
  rw [step_unpacker_unreachable_iff hturn, stepsel, decodeStepsel_error_iff, full, beq_iff_eq]

/-! ### HOST's commands (R92, R93) -/

theorem paletteAddr_eq_add : ∀ e : Byte, paletteAddr e = 0x400 + 4 * e.setWidth 12 := by decide

theorem decodeBusx_start {bits : Word} (h : bits.getLsbD 1 = false) :
    decodeBusx (busxOf true 0x000 (bits ||| 1)) = .wrCtrlStart (bits ||| 1) := by
  have hsrst : (bits ||| 1).getLsbD 1 = false := by rw [BitVec.getLsbD_or, h]; rfl
  have hstart : (bits ||| 1).getLsbD 0 = true := by rw [BitVec.getLsbD_or]; exact Bool.or_true _
  rw [decodeBusx_write, decodeWrite_start hsrst hstart]

theorem decodeBusx_srst (bits : Word) : decodeBusx (busxOf true 0x000 (bits ||| 2)) = .wrCtrlSrst (bits ||| 2) := by
  have hsrst : (bits ||| 2).getLsbD 1 = true := by rw [BitVec.getLsbD_or]; exact Bool.or_true _
  rw [decodeBusx_write, decodeWrite_srst hsrst]

/-- Settles O56: each command expands to its words by definition, and these decode by the rows of R81. -/
theorem hostCommandsDecode : Obligations.HostCommandsDecode := by
  refine ⟨fun a => ⟨rfl, decodeBusx_read a 0⟩, fun a v => ?wr, fun e v => ?pal, fun bits hbits => ?start, fun bits => ?srst,
    ?clr, fun bytes => rfl⟩
  case wr => exact ⟨busxOf true a v, rfl, busxWe_busxOf _ _ _, busxAddr_busxOf _ _ _, busxData_busxOf _ _ _⟩
  case pal =>
    refine ⟨busxOf true (paletteAddr e) v, rfl, ?_, ?_⟩
    · rw [busxAddr_busxOf, paletteAddr_eq_add]
    · rw [decodeBusx_write, decodeWrite_paletteAddr]
  case start => exact ⟨_, rfl, decodeBusx_start hbits⟩
  case srst => exact ⟨_, rfl, decodeBusx_srst bits⟩
  case clr => exact ⟨_, rfl, decodeBusx_write 0x004 0x00010006⟩

/-! ### Closed facts -/

/-- Settles O8: the decoders evaluated on the fourteen words. -/
theorem wordsOfTheSpecDecode : Obligations.WordsOfTheSpecDecode := by
  unfold Obligations.WordsOfTheSpecDecode
  decide

/-- Settles O13: the IDLE row's meaning is the next state itself. -/
theorem idleRowChangesNothing : Obligations.IdleRowChangesNothing := fun _ _ _ _ => rfl

end Sys2Proof.Proofs
end

section
/-! PROOFS. The statements of spec/40_dispatch.md: the format selector against the dispatch function (R75, R96), the outcomes of
the START check (R97 to R104, R109), and which turn can begin a run (R95). -/

namespace Sys2Proof.Proofs

open Sys2Proof.Machine Sys2Proof.Laws

/-! ### The dispatch (R75, R96) -/

theorem isFormatPair_iff {c : Word} {b : BitVec 16} : isFormatPair c b = true ↔
    (c = 0 ∧ (b = 4 ∨ b = 8 ∨ b = 24 ∨ b = 32)) ∨ (c = 3 ∧ b = 32) := by
  simp only [isFormatPair, Bool.or_eq_true, Bool.and_eq_true, beq_iff_eq, or_assoc]

/-- On the five pairs the selector decodes to a format row, and the dispatch gives that row's format. -/
theorem dispatch_of_formatPair {c : Word} {b : BitVec 16} (h : isFormatPair c b = true) :
    formatRow (decodeFmtsel (fmtselOf c b)) = some (fmtOf c b) ∧ fmtOf c b ≠ Fmt.none := by
  rcases isFormatPair_iff.mp h with ⟨rfl, rfl | rfl | rfl | rfl⟩ | ⟨rfl, rfl⟩ <;> decide

theorem fmtOf_of_not_formatPair {c : Word} {b : BitVec 16} (h : isFormatPair c b = false) : fmtOf c b = Fmt.none := by
  obtain ⟨hidx4, hidx8, hrgb24, hrgb32, hbf32⟩ := (isFormatPair_eq_false_iff c b).mp h
  rw [fmtOf, if_neg hidx4, if_neg hidx8, if_neg hrgb24, if_neg hrgb32, if_neg hbf32]

/-- FMT_NONE is the START check's NotSupported (R100). -/
theorem exec_fmtNone (c : Word) (b : BitVec 16) (s : State) : exec (.fmtNone c b) s = .next (startSelected Fmt.none s) := rfl

/-- The decoded row runs the rest of the START check with the format that the dispatch chooses. -/
theorem exec_decodeFmtsel (c : Word) (b : BitVec 16) (s : State) :
    exec (decodeFmtsel (fmtselOf c b)) s = .next (startSelected (fmtOf c b) s) := by
  cases h : isFormatPair c b with
  | true =>
    obtain ⟨hrow, _⟩ := dispatch_of_formatPair h
    exact (exec_format hrow s).1
  | false =>
    rw [decodeFmtsel_of_not_formatPair h, fmtOf_of_not_formatPair h, exec_fmtNone]

/-! ### The FMTSEL rows (R99) -/

/-- Every FMTSEL row, FMT_NONE included, is the rest of the START check with one format. -/
theorem exec_fmtselRow {i : Instr} (h : (formatRow i).isSome ∨ ∃ x y, i = .fmtNone x y) :
    ∃ f, ∀ s, exec i s = .next (startSelected f s) := by
  rcases h with h | ⟨x, y, rfl⟩
  · obtain ⟨f, hf⟩ := Option.isSome_iff_exists.mp h
    exact ⟨f, fun s => (exec_format hf s).1⟩
  · exact ⟨Fmt.none, exec_fmtNone x y⟩

/-- An image of width 0 has rows of no bytes and no padding, and one of height 0 no rows (R102). -/
theorem required_eq_zero (f : FmtCode) {w h : Nat} (hempty : w = 0 ∨ h = 0) : required f w h = 0 := by
  rcases hempty with rfl | rfl
  · have hrow : rowBytes f 0 = 0 := by
      unfold rowBytes
      split_ifs <;> rfl
    rw [required, stride, padBytes, hrow, Nat.zero_mul]
  · exact Nat.mul_zero _

/-- The START check reads STATUS, the run state, the dimensions and SRC_AVAIL, and nothing else (R109). -/
theorem startSelected_congr (f : FmtCode) {s s' : State} (hstatus : s'.status = s.status) (hrun : s'.run = s.run)
    (hw : imageW s' = imageW s) (hh : imageH s' = imageH s) (havail : s'.cfg.srcAvail = s.cfg.srcAvail) :
    (startSelected f s').status = (startSelected f s).status ∧ (startSelected f s').run = (startSelected f s).run := by
  rcases startSelected_cases f s with ⟨rfl, h⟩ | ⟨hf, hr, h⟩ | ⟨hf, he, h⟩ | ⟨hf, hr, hw0, hh0, h⟩ <;> rw [h]
  · rw [startSelected_none, hstatus]
    exact ⟨rfl, hrun⟩
  · rw [startSelected_short s' hf (by rwa [hw, hh, havail]), hstatus]
    exact ⟨rfl, hrun⟩
  · rw [← hw, ← hh] at he
    rw [startSelected_empty s' hf (required_eq_zero f he ▸ Nat.zero_le _) he, hstatus, hrun]
    exact ⟨rfl, rfl⟩
  · rw [startSelected_run s' hf (by rwa [hw, hh, havail]) (hw ▸ hw0) (hh ▸ hh0), hstatus, hrun]
    exact ⟨rfl, rfl⟩

/-- START leaves the stale bytes of the last pixel as they are (R103). -/
theorem startSelected_acc_nib (f : FmtCode) (s : State) :
    (startSelected f s).run.acc = s.run.acc ∧ (startSelected f s).run.nib = s.run.nib := by
  rcases startSelected_cases f s with ⟨_, h⟩ | ⟨_, _, h⟩ | ⟨_, _, h⟩ | ⟨_, _, _, _, h⟩ <;> rw [h] <;> exact ⟨rfl, rfl⟩

/-! ### Dimensions (R97) -/

theorem magnitude_eq_natAbs (v : Word) : magnitude v = v.toInt.natAbs := by
  have hv := v.isLt
  have hmsb : v.getLsbD 31 = v.msb := (BitVec.msb_eq_getLsbD_last v).symm
  rw [magnitude, hmsb, BitVec.toInt_eq_msb_cond]
  split <;> omega

/-! ### The START transaction (R95, R104) -/

theorem exec_wrCtrlStart (data : Word) (s : State) : exec (.wrCtrlStart data) s = .next (writeCtrl data s) := rfl

/-- A word that decodes to START has DATA[0] = 1. -/
theorem start_bit_of_wf {data : Word} (h : (Instr.wrCtrlStart data).wf = true) : data.getLsbD 0 = true :=
  ((Bool.and_eq_true _ _).mp h).2

/-! ### What an idle block's phase can become (R95) -/

theorem writeStatus_run (data : Word) (s : State) : (writeStatus data s).run = s.run := by
  unfold writeStatus ackIgnwr ackError ackDone
  split_ifs <;> rfl

/-- Of the bus transactions only START takes an idle block out of IDLE. -/
theorem busEffect_idle {s t : State} {i : Instr} (hidle : s.run.fsm = .idle) (h : BusEffect s i t) :
    t.run.fsm = .idle ∨ ∃ data, i = .wrCtrlStart data := by
  cases h with
  | start data _ => exact .inr ⟨data, rfl⟩
  | softReset data => exact .inl rfl
  | ackStatus data => exact .inl (by rw [writeStatus_run, hidle])
  | ctrlBusy data hi hbusy => exact absurd hidle hbusy
  | ignoreBusy hi hbusy => exact absurd hidle hbusy
  | _ => exact .inl hidle

/-- UNPACKER never leaves IDLE (R79). -/
theorem unpackerEffect_idle {s t : State} (hidle : s.run.fsm = .idle) (h : UnpackerEffect s t) : t = s := by
  cases h with
  | idle _ | waitByte _ _ | waitSink _ _ _ => rfl
  | takeByte hfsm _ _ _ | emit hfsm _ _ _ _ | skipByte hfsm _ => cases hidle.symm.trans hfsm

/-! ### The settled statements -/

/-- Settles O9: on the five pairs by evaluation, on every other pair because each comparison fails. -/
theorem formatDispatchAgreesWithTheTable : Obligations.FormatDispatchAgreesWithTheTable := by
  refine ⟨by decide, fun c b => ?_⟩
  rw [← isFormatPair_iff]
  cases hpair : isFormatPair c b with
  | true =>
    obtain ⟨hrow, hne⟩ := dispatch_of_formatPair hpair
    simp [hrow, hne]
  | false =>
    have hnone := fmtOf_of_not_formatPair hpair
    have hdecode := decodeFmtsel_of_not_formatPair hpair
    simp [hnone, hdecode, formatRow]

/-- Settles O14: in an idle block START is the START check on the stored fields, which is what the decoded row runs. -/
theorem startRunsTheFormatRow : Obligations.StartRunsTheFormatRow := by
  intro d s hwf hidle
  refine ⟨_, ?_, exec_decodeFmtsel _ _ _⟩
  rw [exec_wrCtrlStart, writeCtrl_idle d s hidle, if_pos (start_bit_of_wf hwf)]
  rfl

/-- Settles O15: the first outcome of the START check. -/
theorem notSupportedOutcome : Obligations.NotSupportedOutcome := by
  intro c b s
  rw [exec_fmtNone, startSelected_none]
  rfl

/-- Settles O16: the second outcome of the START check. -/
theorem invalidImageOutcome : Obligations.InvalidImageOutcome := by
  intro i f s hrow hreq
  obtain ⟨hexec, hf⟩ := exec_format hrow s
  rw [hexec, startSelected_short s hf hreq]
  rfl

/-- Settles O17: the third outcome of the START check, whose bounds check an image that needs no byte always passes. -/
theorem emptyImageOutcome : Obligations.EmptyImageOutcome := by
  intro i f s hrow hempty
  obtain ⟨hexec, hf⟩ := exec_format hrow s
  have hreq := required_eq_zero f hempty
  refine ⟨hreq, ?_⟩
  rw [hexec, startSelected_empty s hf (hreq ▸ Nat.zero_le _) hempty]
  rfl

/-- Settles O18: the fourth outcome of the START check. -/
theorem runStartOutcome : Obligations.RunStartOutcome := by
  intro i f s hrow hreq hw hh
  obtain ⟨hexec, hf⟩ := exec_format hrow s
  rw [hexec, startSelected_run s hf hreq (Nat.one_le_iff_ne_zero.mp hw) (Nat.one_le_iff_ne_zero.mp hh)]
  rfl

/-- Settles O19: DATA[0] alone makes the busy write one that sets IGNWR. -/
theorem startWhileBusyIsIgnored : Obligations.StartWhileBusyIsIgnored := by
  intro d s hwf hbusy
  have hset : (s.status.ignwr || true) = true := Bool.or_true _
  rw [exec_wrCtrlStart, writeCtrl_busy d s hbusy, start_bit_of_wf hwf, hset, Bool.true_or, Bool.true_or]

/-- Settles O20: CTRL, the masks and the palette are not among what the START check reads. -/
theorem startIgnoresBeatSettings : Obligations.StartIgnoresBeatSettings := by
  intro i s c p mr mg mb ma hi
  obtain ⟨f, hexec⟩ := exec_fmtselRow hi
  exact ⟨_, _, hexec s, hexec _, startSelected_congr f rfl rfl rfl rfl rfl⟩

/-- Settles O22: by the frame of the START check; a palette that stays reads the same bytes. -/
theorem frameOfTheFormatRows : Obligations.FrameOfTheFormatRows := by
  intro i s t hi h
  obtain ⟨f, hexec⟩ := exec_fmtselRow hi
  cases (hexec s).symm.trans h
  obtain ⟨hctrl, hcfg, hpal, henv, hignwr⟩ := startSelected_frame f s
  obtain ⟨hacc, hnib⟩ := startSelected_acc_nib f s
  exact ⟨hctrl, hcfg, henv, hignwr, hacc, hnib, fun _ => by rw [hpal]⟩

/-- Settles O33: the bound is that of a magnitude, and INT_MIN is a case of evaluation. -/
theorem dimensionsAreMagnitudes : Obligations.DimensionsAreMagnitudes := fun s =>
  ⟨magnitude_eq_natAbs _, magnitude_eq_natAbs _, magnitude_le _, magnitude_le _, fun h => by rw [imageW, h]; decide⟩

/-- Settles O44: of HOST's transactions only START leaves IDLE, and no other agent does. -/
theorem onlyStartBeginsARun : Obligations.OnlyStartBeginsARun := by
  intro s t hstep hidle hbusy
  cases stepEffect_of_step hstep with
  | host w hturn h =>
    rcases busEffect_idle (s := afterTurn s) hidle h with hstill | ⟨data, hstart⟩
    · exact absurd hstill hbusy
    · rw [hturn, isStartTurn_host hstart]
  | unpacker _ h => exact absurd (unpackerEffect_idle (s := afterTurn s) hidle h ▸ hidle) hbusy
  | src b _ h => exact absurd (h ▸ hidle) hbusy
  | srcFlush _ h => exact absurd (h ▸ hidle) hbusy
  | sink ready _ h => exact absurd (h ▸ hidle) hbusy
  | rst _ h => exact absurd (h ▸ rfl) hbusy

end Sys2Proof.Proofs
end

section
/-! PROOFS. The statements of spec/41_pixel_paths.md: the bytes an IN_BYTE step takes (R111), the beat an EMIT step hands over
(R112 to R121, R138), the channels of a bitfield pixel (R119, R120), what the STEPSEL rows leave alone (R124), and that SRC's
offers do not depend on when UNPACKER moves (R122). -/

namespace Sys2Proof.Proofs

open Sys2Proof.Machine Sys2Proof.Laws

/-! ### Bitfield channels (R119, R120) -/

/-- Bit k of the mask is set and no lower bit is. -/
def IsLowestSetBit (m : Word) (k : Nat) : Prop := m.getLsbD k = true ∧ ∀ j, j < k → m.getLsbD j = false

theorem exists_isLowestSetBit {m : Word} (h : m ≠ 0) : ∃ k, IsLowestSetBit m k := by
  have hset : ∃ k, m.getLsbD k = true := by
    by_contra hnone
    exact h (BitVec.eq_of_getLsbD_eq fun k _ => by simpa using not_exists.mp hnone k)
  exact ⟨Nat.find hset, Nat.find_spec hset, fun j hj => Bool.eq_false_iff.mpr (Nat.find_min hset hj)⟩

theorem IsLowestSetBit.lt {m : Word} {k : Nat} (h : IsLowestSetBit m k) : k < 32 := BitVec.lt_of_getLsbD h.1

theorem IsLowestSetBit.ne_zero {m : Word} {k : Nat} (h : IsLowestSetBit m k) : m ≠ 0 := by
  rintro rfl
  simpa using h.1

theorem IsLowestSetBit.lsb_eq {m : Word} {k : Nat} (h : IsLowestSetBit m k) : lsb m = k := by
  have hfind : (List.range 32).find? (fun j => m.getLsbD j) = some k :=
    List.find?_range_eq_some.mpr ⟨h.1, List.mem_range.mpr h.lt, fun j hj => by rw [h.2 j hj]; rfl⟩
  rw [lsb, hfind]

/-- Settles O29: the search of lsb finds the lowest set bit, which every nonzero mask has. -/
theorem lowestSetBitHelper : Obligations.LowestSetBitHelper := by
  refine ⟨by decide, fun m hm => ?_⟩
  obtain ⟨k, hk⟩ := exists_isLowestSetBit hm
  exact ⟨k, hk.lt, hk.lsb_eq, hk.1, hk.2⟩

/-- Settles O30: a shift to the right by k divides by 2^k, and the channel keeps the lowest 8 bits. -/
theorem bitfieldChannelValue : Obligations.BitfieldChannelValue := by
  refine ⟨fun w => if_pos rfl, fun w m k hbit hlow => ?_⟩
  have hk : IsLowestSetBit m k := ⟨hbit, hlow⟩
  rw [chan, if_neg hk.ne_zero, hk.lsb_eq, Int.toNat_natCast, BitVec.toNat_setWidth, BitVec.toNat_ushiftRight,
    Nat.shiftRight_eq_div_pow]

/-! ### The output beat (R112, R138) -/

/-- The bytes of a packed pixel: A, R, G, B from the lowest in order 0, R, G, B, A in order 1. -/
theorem byteOf_pack (p : Pixel) (order : Bool) :
    byteOf 0 (pack p order) = (if order then p.r else p.a) ∧ byteOf 1 (pack p order) = (if order then p.g else p.r) ∧
    byteOf 2 (pack p order) = (if order then p.b else p.g) ∧ byteOf 3 (pack p order) = (if order then p.a else p.b) := by
  cases order <;> simp [pack]

/-- Settles O24: the beat is that of the pixel at the current position, and `advance()` leaves the other agents alone. -/
theorem emitHandsOverItsBeat : Obligations.EmitHandsOverItsBeat := by
  intro i s p hp hsink
  obtain ⟨_, _, _, henv, _⟩ := advance_frame (outPush (beatOf p s) { s with run := emitNibble s.run i })
  obtain ⟨h0, h1, h2, h3⟩ := byteOf_pack p s.ctrl.outOrder
  exact ⟨_, beatOf p s, exec_emit hp hsink, henv, h0, h1, h2, h3, rfl, (Bool.decide_and _ _).symm⟩

/-! ### The STEPSEL rows, by kind -/

/-- The nine rows of R79 in their four kinds. -/
inductive StepRow : Instr → Prop
  | idle (u : Bool) (fmt : FmtCode) (nibph : Bool) : StepRow (.idle u fmt nibph)
  | inByte (fmt : FmtCode) (nibph : Bool) : StepRow (.inByte fmt nibph)
  | padSkip (u : Bool) (fmt : FmtCode) (nibph : Bool) : StepRow (.padSkip u fmt nibph)
  | emit {i : Instr} (hi : isEmit i = true) : StepRow i

theorem stepRow_of_isStepRow {i : Instr} (h : isStepRow i = true) : StepRow i := by
  cases i with
  | idle u fmt nibph => exact .idle u fmt nibph
  | inByte fmt nibph => exact .inByte fmt nibph
  | padSkip u fmt nibph => exact .padSkip u fmt nibph
  | emitIdx4Hi | emitIdx4Lo | emitIdx8 | emitRgb24 | emitRgb32 | emitBf32 => exact .emit rfl
  | _ => cases h

/-- What a step selector decodes to is a STEPSEL row. -/
theorem isStepRow_of_decodeStepsel {w : Stepsel} {i : Instr} (h : decodeStepsel w = .ok i) : isStepRow i = true := by
  obtain ⟨_, hcode⟩ := isCodeOf_of_decodeStepsel h
  cases i with
  | idle | inByte | padSkip | emitIdx4Hi | emitIdx4Lo | emitIdx8 | emitRgb24 | emitRgb32 | emitBf32 => rfl
  | _ => cases hcode

theorem exec_inByte_nil {s : State} (fmt : FmtCode) (nibph : Bool) (hin : s.env.inQ = []) :
    exec (.inByte fmt nibph) s = .next s := by
  rw [exec, execInByte, inPop_nil hin]

theorem exec_inByte_cons {s : State} {b : Byte} {rest : List Byte} (fmt : FmtCode) (nibph : Bool)
    (hin : s.env.inQ = b :: rest) (hroom : s.run.accN.val + 1 < 5) :
    exec (.inByte fmt nibph) s = .next (storeAcc b ⟨s.run.accN.val + 1, hroom⟩ { s with env.inQ := rest }) := by
  rw [exec, execInByte, inPop_cons hin]
  exact dif_pos hroom

/-- With four bytes held, a fifth has no place (log entry 9). -/
theorem exec_inByte_full {s : State} {b : Byte} {rest : List Byte} (fmt : FmtCode) (nibph : Bool)
    (hin : s.env.inQ = b :: rest) (hroom : ¬s.run.accN.val + 1 < 5) :
    exec (.inByte fmt nibph) s = .fault .assemblyBufferFull := by
  rw [exec, execInByte, inPop_cons hin]
  exact dif_neg hroom

theorem exec_padSkip_nil {s : State} (u : Bool) (fmt : FmtCode) (nibph : Bool) (hin : s.env.inQ = []) :
    exec (.padSkip u fmt nibph) s = .next s := by
  rw [exec, execPadSkip, inPop_nil hin]

theorem exec_padSkip_cons {s : State} {b : Byte} {rest : List Byte} (u : Bool) (fmt : FmtCode) (nibph : Bool)
    (hin : s.env.inQ = b :: rest) : exec (.padSkip u fmt nibph) s = .next (skipPad { s with env.inQ := rest }) := by
  rw [exec, execPadSkip, inPop_cons hin]

/-- Settles O23: S.acc is a vector of four, so element S.accN is there to be written. -/
theorem inByteTakesTheHeadByte : Obligations.InByteTakesTheHeadByte := by
  intro f n s b rest hin hlt
  have hroom : s.run.accN.val + 1 < 5 := by omega
  refine ⟨_, exec_inByte_cons f n hin hroom, rfl, fun k hk => ?_, rfl⟩
  rw [storeAcc_run]
  simp [Vector.getElem_setIfInBounds, eq_comm]

/-! ### What a STEPSEL row leaves alone (R124) -/

/-- The shapes a next state of a STEPSEL row can have, whatever the state selects; the guards, and what is written into S.acc and
the beat, are those of the equations above and play no part in the frame. -/
inductive StepRowEffect (s : State) : Instr → State → Prop
  | unchanged {i : Instr} : StepRowEffect s i s
  | takeByte (fmt : FmtCode) (nibph : Bool) (b : Byte) (rest : List Byte) (n : Fin 5) :
      StepRowEffect s (.inByte fmt nibph) (storeAcc b n { s with env.inQ := rest })
  | skipByte (u : Bool) (fmt : FmtCode) (nibph : Bool) (rest : List Byte) :
      StepRowEffect s (.padSkip u fmt nibph) (skipPad { s with env.inQ := rest })
  | emit {i : Instr} (hi : isEmit i = true) (beat : Beat) :
      StepRowEffect s i (advance (outPush beat { s with run := emitNibble s.run i }))

theorem stepRowEffect_of_exec {i : Instr} {s t : State} (hi : isStepRow i = true) (h : exec i s = .next t) :
    StepRowEffect s i t := by
  cases stepRow_of_isStepRow hi with
  | idle u fmt nibph =>
    cases h
    exact .unchanged
  | inByte fmt nibph =>
    cases hin : s.env.inQ with
    | nil =>
      cases (exec_inByte_nil fmt nibph hin).symm.trans h
      exact .unchanged
    | cons b rest =>
      by_cases hroom : s.run.accN.val + 1 < 5
      · cases (exec_inByte_cons fmt nibph hin hroom).symm.trans h
        exact .takeByte fmt nibph b rest _
      · cases (exec_inByte_full fmt nibph hin hroom).symm.trans h
  | padSkip u fmt nibph =>
    cases hin : s.env.inQ with
    | nil =>
      cases (exec_padSkip_nil u fmt nibph hin).symm.trans h
      exact .unchanged
    | cons b rest =>
      cases (exec_padSkip_cons u fmt nibph hin).symm.trans h
      exact .skipByte u fmt nibph rest
  | emit hemit =>
    cases hsink : s.env.sinkReady with
    | false =>
      cases (exec_emit_stalled hemit hsink).symm.trans h
      exact .unchanged
    | true =>
      obtain ⟨p, hp⟩ := emitPixel_of_isEmit s hemit
      cases (exec_emit hp hsink).symm.trans h
      exact .emit hemit _

/-- PAD_SKIP's statements change nothing but the run state and STATUS.DONE, which they never clear (R131 to R133). -/
theorem skipPad_frame (s : State) :
    (skipPad s).ctrl = s.ctrl ∧ (skipPad s).cfg = s.cfg ∧ (skipPad s).pal = s.pal ∧ (skipPad s).env = s.env ∧
    ((skipPad s).status = s.status ∨ (skipPad s).status = { s.status with done := true }) := by
  rcases skipPad_cases s with ⟨_, hs⟩ | ⟨_, _, hs⟩ | ⟨_, _, hs⟩ <;> rw [hs]
  · exact ⟨rfl, rfl, rfl, rfl, .inl rfl⟩
  · exact ⟨rfl, rfl, rfl, rfl, .inl rfl⟩
  · exact ⟨rfl, rfl, rfl, rfl, .inr rfl⟩

theorem takesByte_of_isEmit {i : Instr} (h : isEmit i = true) : takesByte i = false := by
  cases i with
  | inByte | padSkip => cases h
  | _ => rfl

/-- Settles O28, by the row's effect: `advance()` and `rowEnd()` set DONE at most. -/
theorem frameOfTheStepRows : Obligations.FrameOfTheStepRows := by
  intro i s t hi h
  cases stepRowEffect_of_exec hi h with
  | unchanged => exact ⟨rfl, rfl, fun _ => rfl, .inl rfl, rfl, fun _ => rfl, fun _ => rfl⟩
  | takeByte fmt nibph b rest n => exact ⟨rfl, rfl, fun _ => rfl, .inl rfl, rfl, nofun, fun _ => rfl⟩
  | skipByte u fmt nibph rest =>
    obtain ⟨hctrl, hcfg, hpal, henv, hstatus⟩ := skipPad_frame { s with env.inQ := rest }
    exact ⟨hctrl, hcfg, fun _ => by rw [hpal], hstatus, by rw [henv], nofun, fun _ => by rw [henv]⟩
  | emit hemit beat =>
    obtain ⟨hctrl, hcfg, hpal, henv, hstatus⟩ := advance_frame (outPush beat { s with run := emitNibble s.run i })
    refine ⟨hctrl, hcfg, fun _ => by rw [hpal]; rfl, hstatus, by rw [henv]; rfl, fun _ => by rw [henv]; rfl, ?_⟩
    rw [takesByte_of_isEmit hemit]
    exact nofun

/-! ### SRC's offers and UNPACKER (R122) -/

/-- The state after SRC's turn, when `rest` are the turns to come. -/
def offerAt (b : Byte) (rest : List Turn) (s : State) : State := srcOffer b { s with env.sched := rest }

/-- The outcome once SRC has offered a byte after it: a machine that has stopped stays as it stopped. -/
def offerAfter (b : Byte) (rest : List Turn) : Host.Outcome State Fault Refusal → Host.Outcome State Fault Refusal
  | .next t => .next (offerAt b rest t)
  | .fault f => .fault f
  | .refused r => .refused r

theorem offerAt_inQ_cons {s : State} {b' : Byte} {queue : List Byte} (b : Byte) (rest : List Turn)
    (hin : s.env.inQ = b' :: queue) : (offerAt b rest s).env.inQ = b' :: (queue ++ [b]) := by
  rw [offerAt, srcOffer_env]
  exact congrArg (· ++ [b]) hin

/-- `advance()` does not look at the streams. -/
theorem advance_offerAt (b : Byte) (rest : List Turn) (s : State) :
    advance (offerAt b rest s) = offerAt b rest (advance s) := by
  rcases advance_cases s with ⟨hcol, hs⟩ | ⟨hcol, hpad, hs⟩ | ⟨hcol, hpad, hrow, hs⟩ | ⟨hcol, hpad, hrow, hs⟩ <;> rw [hs]
  · exact advance_within _ hcol
  · exact advance_pad _ hcol hpad
  · exact advance_row _ hcol hpad hrow
  · exact advance_done _ hcol hpad hrow

/-- PAD_SKIP does not look at the streams once it has its byte. -/
theorem skipPad_offerAt (b : Byte) (rest : List Turn) (s : State) :
    skipPad (offerAt b rest s) = offerAt b rest (skipPad s) := by
  rcases skipPad_cases s with ⟨hleft, hs⟩ | ⟨hleft, hrow, hs⟩ | ⟨hleft, hrow, hs⟩ <;> rw [hs]
  · exact if_neg hleft
  · exact (if_pos hleft).trans (rowEnd_more _ hrow)
  · exact (if_pos hleft).trans (rowEnd_last _ hrow)

/-- The pixel is computed from the block's registers, not from the streams. -/
theorem emitPixel_offerAt (b : Byte) (rest : List Turn) (s : State) (i : Instr) :
    emitPixel (offerAt b rest s) i = emitPixel s i := by
  cases i <;> rfl

/-- With a byte on offer already, a STEPSEL row does the same before SRC's next offer as after it: it takes the head byte, and
the new one comes last. -/
theorem exec_offerAt {i : Instr} {s : State} (b : Byte) (rest : List Turn) (hi : isStepRow i = true) (hin : s.env.inQ ≠ []) :
    exec i (offerAt b rest s) = offerAfter b rest (exec i s) := by
  obtain ⟨b', queue, hin⟩ := List.exists_cons_of_ne_nil hin
  have hin' := offerAt_inQ_cons b rest hin
  cases stepRow_of_isStepRow hi with
  | idle u fmt nibph => rfl
  | inByte fmt nibph =>
    by_cases hroom : s.run.accN.val + 1 < 5
    · rw [exec_inByte_cons fmt nibph hin hroom, exec_inByte_cons fmt nibph hin' hroom]
      rfl
    · rw [exec_inByte_full fmt nibph hin hroom, exec_inByte_full fmt nibph hin' hroom]
      rfl
  | padSkip u fmt nibph =>
    rw [exec_padSkip_cons u fmt nibph hin, exec_padSkip_cons u fmt nibph hin', offerAfter, ← skipPad_offerAt]
    rfl
  | emit hemit =>
    cases hsink : s.env.sinkReady with
    | false =>
      rw [exec_emit_stalled hemit hsink]
      exact exec_emit_stalled hemit hsink
    | true =>
      obtain ⟨p, hp⟩ := emitPixel_of_isEmit s hemit
      have hp' := (emitPixel_offerAt b rest s i).trans hp
      rw [exec_emit hp hsink, exec_emit hp' hsink, offerAfter, ← advance_offerAt]
      rfl

theorem run_one (s : State) : core.run 1 s = step s := by
  cases h : step s with
  | next t => exact run_next h
  | fault f => exact run_fault h
  | refused r => exact run_refused h

/-- A STEPSEL row leaves the turns to come as they are (R124). -/
theorem exec_stepRow_sched {i : Instr} {s t : State} (hi : isStepRow i = true) (h : exec i s = .next t) :
    t.env.sched = s.env.sched := by
  obtain ⟨_, _, _, _, henv, _⟩ := frameOfTheStepRows i s t hi h
  rw [henv]

/-- UNPACKER's selected row, then SRC's offer. -/
theorem run_unpacker_then_src {i : Instr} {s : State} {b : Byte} {rest : List Turn}
    (hsched : s.env.sched = .unpacker :: .src b :: rest) (hi : decodeStepsel (stepsel s) = .ok i) :
    core.run 2 s = offerAfter b rest (exec i { s with env.sched := .src b :: rest }) := by
  have hstep := step_unpacker_ok (nextTurn_fst_cons hsched) hi
  rw [afterTurn_cons hsched] at hstep
  cases h : exec i { s with env.sched := .src b :: rest } with
  | next t =>
    have hsched' := exec_stepRow_sched (isStepRow_of_decodeStepsel hi) h
    rw [run_next (hstep.trans h), run_one, step_src hsched']
    rfl
  | fault f => exact run_fault (hstep.trans h)
  | refused r => exact run_refused (hstep.trans h)

/-- SRC's offer, then UNPACKER's selected row. -/
theorem run_src_then_unpacker {i : Instr} {s : State} {b : Byte} {rest : List Turn}
    (hsched : s.env.sched = .src b :: .unpacker :: rest) (hi : decodeStepsel (stepsel s) = .ok i) :
    core.run 2 s = exec i (offerAt b rest s) := by
  rw [run_next (step_src hsched), run_one]
  exact step_unpacker_ok (s := offerAt b (.unpacker :: rest) s) rfl hi

/-- The selector does not look at the streams, so one that no row matches stops the machine in either order. -/
theorem run_unreachable {s : State} {b : Byte} {rest : List Turn}
    (hsched : s.env.sched = .unpacker :: .src b :: rest ∨ s.env.sched = .src b :: .unpacker :: rest)
    (hi : decodeStepsel (stepsel s) = .error .unreachableStepSelector) :
    core.run 2 s = .fault .unreachableStepSelector := by
  rcases hsched with hsched | hsched
  · exact run_fault ((step_unpacker_unreachable_iff (nextTurn_fst_cons hsched)).mpr hi)
  · rw [run_next (step_src hsched)]
    exact run_fault ((step_unpacker_unreachable_iff rfl).mpr hi)

/-- Settles O55: both orders select the same row, and its execution commutes with SRC's offer; where no row is selected both
orders stop with that fault. -/
theorem srcOffersCommuteWithUnpacker : Obligations.SrcOffersCommuteWithUnpacker := by
  intro s b rest hin
  cases hi : decodeStepsel (stepsel s) with
  | ok i =>
    have hsrc := run_src_then_unpacker (s := { s with env.sched := .src b :: .unpacker :: rest }) rfl hi
    have hcommute := exec_offerAt (s := { s with env.sched := .src b :: rest }) b rest (isStepRow_of_decodeStepsel hi) hin
    have hunpacker := run_unpacker_then_src (s := { s with env.sched := .unpacker :: .src b :: rest }) rfl hi
    exact hsrc.trans (hcommute.trans hunpacker.symm)
  | error e =>
    cases e
    have hsrc := run_unreachable (s := { s with env.sched := .src b :: .unpacker :: rest }) (.inr rfl) hi
    have hunpacker := run_unreachable (s := { s with env.sched := .unpacker :: .src b :: rest }) (.inl rfl) hi
    exact hsrc.trans hunpacker.symm

end Sys2Proof.Proofs
end

section
/-! PROOFS. The statements of spec/42_row_padding.md about one step: the lengths of stored rows (R127, R128), how an EMIT step
and PAD_SKIP advance the position (R130 to R132), and which steps end a run with DONE (R102, R133). -/

namespace Sys2Proof.Proofs

open Sys2Proof.Machine Sys2Proof.Laws

/-! ### Lengths of stored rows (R127, R128) -/

theorem rowBytes_idx4 (w : Nat) : rowBytes Fmt.idx4 w = (w + 1) / 2 := rfl
theorem rowBytes_idx8 (w : Nat) : rowBytes Fmt.idx8 w = w := rfl
theorem rowBytes_rgb24 (w : Nat) : rowBytes Fmt.rgb24 w = 3 * w := rfl
theorem rowBytes_rgb32 (w : Nat) : rowBytes Fmt.rgb32 w = 4 * w := rfl
theorem rowBytes_bf32 (w : Nat) : rowBytes Fmt.bf32 w = 4 * w := rfl

theorem padBytes_eq_zero_of_dvd {fmt : FmtCode} {w : Nat} (h : 4 ∣ rowBytes fmt w) : padBytes fmt w = 0 := by
  rw [padBytes, Nat.mod_eq_zero_of_dvd h]

/-- Padding rounds a row up to the next multiple of 4. -/
theorem stride_mod_four (fmt : FmtCode) (w : Nat) : stride fmt w % 4 = 0 := by
  unfold stride padBytes
  omega

/-- Settles O32: the row bytes by the format's row of R127; padding and stride by arithmetic modulo 4. -/
theorem lengthsOfStoredRows : Obligations.LengthsOfStoredRows := by
  intro w
  have h32 : 4 ∣ 4 * w := Nat.dvd_mul_right 4 w
  refine ⟨⟨rowBytes_idx4 w, rowBytes_idx8 w, rowBytes_rgb24 w, rowBytes_rgb32 w, rowBytes_bf32 w⟩,
    ⟨padBytes_eq_zero_of_dvd h32, padBytes_eq_zero_of_dvd h32⟩, fun f => ?_⟩
  have hpad := padBytes_lt f w
  exact ⟨rfl, Nat.le_of_lt_succ hpad, rfl, stride_mod_four f w, Nat.add_lt_add_left hpad _⟩

/-! ### The position after a step (R130 to R132) -/

/-- Settles O25, by the four things `advance()` can do, from the nibble state that the EMIT step leaves. -/
theorem emitAdvancesThePosition : Obligations.EmitAdvancesThePosition := by
  intro i s hi hsink
  obtain ⟨p, hp⟩ := emitPixel_of_isEmit s hi
  refine ⟨_, exec_emit hp hsink, ?_⟩
  have hw : imageW (outPush (beatOf p s) { s with run := emitNibble s.run i }) = imageW s := rfl
  have hh : imageH (outPush (beatOf p s) { s with run := emitNibble s.run i }) = imageH s := rfl
  have hcases := advance_cases (outPush (beatOf p s) { s with run := emitNibble s.run i })
  rw [hw, hh, outPush_run, outPush_status] at hcases
  rw [← emitNibble_col s.run i, ← emitNibble_row s.run i]
  rcases hcases with ⟨hcol, h⟩ | ⟨hcol, hpad, h⟩ | ⟨hcol, hpad, hrow, h⟩ | ⟨hcol, hpad, hrow, h⟩ <;> rw [h]
  · exact ⟨(if_pos hcol).symm, (if_neg fun hend => hcol hend.1).symm⟩
  · rw [if_neg (not_not.mpr hcol), if_pos hpad]
    exact ⟨rfl, (if_neg fun hend => hpad hend.2.1).symm⟩
  · rw [if_neg (not_not.mpr hcol), if_neg (not_not.mpr hpad), if_neg hrow]
    exact ⟨rfl, (if_neg fun hend => hrow hend.2.2).symm⟩
  · rw [if_neg (not_not.mpr hcol), if_neg (not_not.mpr hpad), if_pos hrow]
    exact ⟨rfl, (if_pos ⟨hcol, hpad, hrow⟩).symm⟩

theorem sub_one_eq_zero_iff : ∀ left : BitVec 2, left - 1 = 0 ↔ left = 1 := by decide

/-- Settles O26: the byte is taken, and then PAD_SKIP does one of its three things. -/
theorem padSkipDiscardsOneByte : Obligations.PadSkipDiscardsOneByte := by
  intro u n f s b rest hin
  rw [exec_padSkip_cons u f n hin]
  have hcases := skipPad_cases { s with env.inQ := rest }
  simp only [ne_eq, sub_one_eq_zero_iff] at hcases
  rcases hcases with ⟨hleft, h⟩ | ⟨hleft, hrow, h⟩ | ⟨hleft, hrow, h⟩ <;> rw [h]
  · exact congrArg Host.Outcome.next (if_pos hleft).symm
  · exact congrArg Host.Outcome.next ((if_neg (not_not.mpr hleft)).trans (if_pos hrow)).symm
  · exact congrArg Host.Outcome.next ((if_neg (not_not.mpr hleft)).trans (if_neg (not_not.mpr hrow))).symm

/-! ### Which steps set DONE (R68, R102, R133) -/

/-- A STATUS write sets no flag (R150). -/
theorem writeStatus_done {s : State} (data : Word) (h : s.status.done = false) : (writeStatus data s).status.done = false := by
  unfold writeStatus ackIgnwr ackError ackDone
  split_ifs <;> simp [h]

/-- The START check sets DONE only for an empty image, whose run state it clears (R99, R102). -/
theorem startSelected_done {fmt : FmtCode} {s : State} (h : (startSelected fmt s).status.done = true) :
    (imageW s = 0 ∨ imageH s = 0) ∧ (startSelected fmt s).run = clearedRun s.run := by
  rcases startSelected_cases fmt s with ⟨_, hs⟩ | ⟨_, _, hs⟩ | ⟨_, hempty, hs⟩ | ⟨_, _, _, _, hs⟩ <;> rw [hs] at h ⊢
  · cases h
  · cases h
  · exact ⟨hempty, rfl⟩
  · cases h

/-- `rowEnd()` alone ends a run: `t` is what it makes of the last row of `s`. -/
structure EndsRun (s t : State) : Prop where
  fsm : t.run.fsm = .idle
  col : t.run.col = 0
  row : t.run.row.toNat = imageH s

theorem advance_done_rises {s : State} (h0 : s.status.done = false) (h : (advance s).status.done = true) :
    EndsRun s (advance s) := by
  rcases advance_cases s with ⟨_, hs⟩ | ⟨_, _, hs⟩ | ⟨_, _, _, hs⟩ | ⟨_, _, hrow, hs⟩ <;> rw [hs] at h ⊢
  · cases h0.symm.trans h
  · cases h0.symm.trans h
  · cases h0.symm.trans h
  · exact ⟨rfl, rfl, hrow⟩

theorem skipPad_done_rises {s : State} (h0 : s.status.done = false) (h : (skipPad s).status.done = true) :
    EndsRun s (skipPad s) := by
  rcases skipPad_cases s with ⟨_, hs⟩ | ⟨_, _, hs⟩ | ⟨_, hrow, hs⟩ <;> rw [hs] at h ⊢
  · cases h0.symm.trans h
  · cases h0.symm.trans h
  · exact ⟨rfl, rfl, hrow⟩

/-- UNPACKER sets DONE only in the step that ends a run. -/
theorem unpackerEffect_done_rises {s t : State} (h : UnpackerEffect s t) (h0 : s.status.done = false)
    (h1 : t.status.done = true) : s.run.fsm ≠ .idle ∧ EndsRun s t := by
  cases h with
  | idle _ | waitByte _ _ | waitSink _ _ _ | takeByte _ _ _ _ => cases h0.symm.trans h1
  | @emit i p hfsm _ _ _ _ =>
    obtain ⟨hfsm', hcol, hrow⟩ := advance_done_rises (s := outPush (beatOf p s) { s with run := emitNibble s.run i }) h0 h1
    exact ⟨by simp [hfsm], hfsm', hcol, hrow⟩
  | @skipByte b rest hfsm _ =>
    obtain ⟨hfsm', hcol, hrow⟩ := skipPad_done_rises (s := { s with env.inQ := rest }) h0 h1
    exact ⟨by simp [hfsm], hfsm', hcol, hrow⟩

/-- Of the bus transactions only the START of an empty image, in an idle block, sets DONE. -/
theorem busEffect_done_rises {s t : State} {i : Instr} (h : BusEffect s i t) (h0 : s.status.done = false)
    (h1 : t.status.done = true) :
    (∃ data, i = .wrCtrlStart data) ∧ s.run.fsm = .idle ∧ (imageW s = 0 ∨ imageH s = 0) ∧ t.run = clearedRun s.run := by
  cases h with
  | start data hidle => exact ⟨⟨data, rfl⟩, hidle, startSelected_done h1⟩
  | softReset data => cases h1
  | ctrlBusy data hi hbusy =>
    rw [writeCtrl_busy data s hbusy] at h1
    cases h0.symm.trans h1
  | ackStatus data => cases (writeStatus_done data h0).symm.trans h1
  | _ => cases h0.symm.trans h1

/-- Settles O50, by the turn: UNPACKER's and HOST's as said above; SRC, SINK and `rst` set no flag. -/
theorem doneRisesOnlyAtTheEnd : Obligations.DoneRisesOnlyAtTheEnd := by
  intro s t hstep h0 h1
  cases stepEffect_of_step hstep with
  | host w hturn h =>
    obtain ⟨⟨data, hstart⟩, hidle, hempty, hrun⟩ := busEffect_done_rises (s := afterTurn s) h h0 h1
    have hturn' : isStartTurn (turnOf s) = true := by rw [hturn, isStartTurn_host hstart]
    rw [hrun]
    exact ⟨hidle, rfl, .inr ⟨hturn', hempty, rfl⟩⟩
  | unpacker hturn h =>
    obtain ⟨hbusy, hfsm, hcol, hrow⟩ := unpackerEffect_done_rises (s := afterTurn s) h h0 h1
    exact ⟨hfsm, hcol, .inl ⟨hturn, hbusy, hrow⟩⟩
  | src b _ h => cases h0.symm.trans (h ▸ h1)
  | srcFlush _ h => cases h0.symm.trans (h ▸ h1)
  | sink ready _ h => cases h0.symm.trans (h ▸ h1)
  | rst _ h =>
    subst h
    cases h1

end Sys2Proof.Proofs
end

section
/-! PROOFS. How far a run of spec/42_row_padding.md has come, counted in bytes taken and beats handed over (R134): what each
operation of the row sequencing adds to the two counts, and the totals they cannot pass. -/

namespace Sys2Proof.Proofs

open Sys2Proof.Machine Sys2Proof.Laws

/-! ### The bytes of a row, column by column (R110, R127) -/

/-- The formats a run can have (R76, R91). -/
theorem format_cases : ∀ fmt : FmtCode, fmt ≠ Fmt.none → fmt.toNat ≤ 5 →
    fmt = Fmt.idx4 ∨ fmt = Fmt.idx8 ∨ fmt = Fmt.rgb24 ∨ fmt = Fmt.rgb32 ∨ fmt = Fmt.bf32 := by decide

theorem rowBytes_zero (fmt : FmtCode) : rowBytes fmt 0 = 0 := by
  unfold rowBytes
  split_ifs <;> rfl

theorem rowBytes_mono (fmt : FmtCode) {v w : Nat} (h : v ≤ w) : rowBytes fmt v ≤ rowBytes fmt w := by
  unfold rowBytes
  split_ifs <;> omega

/-- A pixel takes need bytes: in IDX4 one for an even column and none for an odd one (R110, R82). -/
theorem rowBytes_succ {st : Status} (hst : RunningStatus st) {nibph : Bool} {col : Nat}
    (hparity : st.fmt = Fmt.idx4 → (nibph = true ↔ col % 2 = 1)) :
    rowBytes st.fmt (col + 1) = rowBytes st.fmt col + (need st.fmt nibph).val := by
  rcases format_cases st.fmt hst.fmt_ne hst.fmt_le with h | h | h | h | h <;> rw [h]
  · have hodd := hparity h
    cases nibph with
    | false =>
      have heven : ¬col % 2 = 1 := fun hc => Bool.noConfusion (hodd.mpr hc)
      change (col + 1 + 1) / 2 = (col + 1) / 2 + 1
      omega
    | true =>
      have hcol := hodd.mp rfl
      change (col + 1 + 1) / 2 = (col + 1) / 2
      omega
  all_goals rfl

/-- A row of at least one pixel has a byte, and so at least four with its padding. -/
theorem four_le_stride {st : Status} (hst : RunningStatus st) {w : Nat} (hw : 0 < w) : 4 ≤ stride st.fmt w := by
  have hpos : 0 < rowBytes st.fmt w := by
    rcases format_cases st.fmt hst.fmt_ne hst.fmt_le with h | h | h | h | h <;>
      simp only [h, rowBytes_idx4, rowBytes_idx8, rowBytes_rgb24, rowBytes_rgb32, rowBytes_bf32] <;> omega
  have hmod := stride_mod_four st.fmt w
  have hle : rowBytes st.fmt w ≤ stride st.fmt w := Nat.le_add_right _ _
  omega

/-! ### How far a run has come -/

/-- The bytes of the current stored row that have been taken. -/
def rowTaken (t : State) : Nat :=
  match t.run.fsm with
  | .idle => 0
  | .pix => rowBytes t.status.fmt t.run.col.toNat + t.run.accN.val
  | .pad => stride t.status.fmt (imageW t) - t.run.padLeft.toNat

/-- The input bytes that the run has taken. -/
def taken (t : State) : Nat := t.run.row.toNat * stride t.status.fmt (imageW t) + rowTaken t

/-- The beats that the run has handed over. -/
def emitted (t : State) : Nat := t.run.row.toNat * imageW t + t.run.col.toNat

theorem taken_pix {t : State} (hfsm : t.run.fsm = .pix) : taken t =
    t.run.row.toNat * stride t.status.fmt (imageW t) + (rowBytes t.status.fmt t.run.col.toNat + t.run.accN.val) := by
  rw [taken, rowTaken, hfsm]

theorem taken_pad {t : State} (hfsm : t.run.fsm = .pad) : taken t =
    t.run.row.toNat * stride t.status.fmt (imageW t) + (stride t.status.fmt (imageW t) - t.run.padLeft.toNat) := by
  rw [taken, rowTaken, hfsm]

theorem taken_idle {t : State} (hfsm : t.run.fsm = .idle) :
    taken t = t.run.row.toNat * stride t.status.fmt (imageW t) := by
  rw [taken, rowTaken, hfsm, Nat.add_zero]

/-- At the start of a row, and after the last one, whole rows have been taken. -/
theorem taken_rowStart {t : State} (hfsm : t.run.fsm ≠ .pad) (hcol : t.run.col = 0) (hacc : t.run.accN = 0) :
    taken t = t.run.row.toNat * stride t.status.fmt (imageW t) := by
  cases hphase : t.run.fsm with
  | idle => exact taken_idle hphase
  | pix =>
    rw [taken_pix hphase, hcol, hacc]
    exact congrArg _ (rowBytes_zero _)
  | pad => exact absurd hphase hfsm

/-- IN_BYTE takes one byte (R111). -/
theorem taken_storeAcc {u : State} {n : Fin 5} (b : Byte) (hfsm : u.run.fsm = .pix) (hn : n.val = u.run.accN.val + 1) :
    taken (storeAcc b n u) = taken u + 1 := by
  have hpix := taken_pix (t := storeAcc b n u) hfsm
  rw [hpix, taken_pix hfsm]
  exact congrArg (fun k => _ + (rowBytes u.status.fmt u.run.col.toNat + k)) hn

/-- At the start of a row, and after the last one, the beats of whole rows have been handed over. -/
theorem emitted_rowStart {t : State} (hcol : t.run.col = 0) : emitted t = t.run.row.toNat * imageW t := by
  rw [emitted, hcol]
  rfl

section
variable {u : State} (hcol : u.run.col.toNat < imageW u) (hrow : u.run.row.toNat < imageH u)
include hcol hrow

/-- `advance()` has taken the bytes of one more column: of the whole row, if it was the last. -/
theorem taken_advance (hfsm : u.run.fsm = .pix) : taken (advance u) =
    u.run.row.toNat * stride u.status.fmt (imageW u) + rowBytes u.status.fmt (u.run.col.toNat + 1) := by
  have hcol' : (u.run.col + 1).toNat = u.run.col.toNat + 1 := toNat_succ_of_lt (magnitude_le _) hcol
  have hrow' : (u.run.row + 1).toNat = u.run.row.toNat + 1 := toNat_succ_of_lt (magnitude_le _) hrow
  have hend : padBytes u.status.fmt (imageW u) = 0 → u.run.col.toNat + 1 = imageW u →
      (u.run.row + 1).toNat * stride u.status.fmt (imageW u) =
        u.run.row.toNat * stride u.status.fmt (imageW u) + rowBytes u.status.fmt (u.run.col.toNat + 1) := by
    intro hpad hlast
    rw [hrow', Nat.succ_mul, hlast]
    congr 1
    rw [stride, hpad, Nat.add_zero]
  rcases advance_cases u with ⟨_, h⟩ | ⟨hlast, _, h⟩ | ⟨hlast, hpad, _, h⟩ | ⟨hlast, hpad, _, h⟩ <;> rw [h]
  · rw [← hcol']
    exact taken_pix hfsm
  · refine (taken_pad rfl).trans (congrArg _ ?_)
    change stride u.status.fmt (imageW u) - (BitVec.ofNat 2 (padBytes u.status.fmt (imageW u))).toNat = _
    rw [toNat_padBytes, hlast]
    exact Nat.add_sub_cancel _ _
  · exact (taken_rowStart (t := { u with run := { nextRow .pix u.run with accN := 0, nibph := false } })
      nofun rfl rfl).trans (hend hpad hlast)
  · exact (taken_rowStart (t := { u with run := { nextRow .idle u.run with accN := 0, nibph := false } })
      nofun rfl rfl).trans (hend hpad hlast)

theorem emitted_advance : emitted (advance u) = emitted u + 1 := by
  have hcol' : (u.run.col + 1).toNat = u.run.col.toNat + 1 := toNat_succ_of_lt (magnitude_le _) hcol
  have hrow' : (u.run.row + 1).toNat = u.run.row.toNat + 1 := toNat_succ_of_lt (magnitude_le _) hrow
  have hend : u.run.col.toNat + 1 = imageW u → (u.run.row + 1).toNat * imageW u = emitted u + 1 := by
    intro hlast
    rw [hrow', emitted, Nat.add_assoc, hlast, Nat.succ_mul]
  rcases advance_cases u with ⟨_, h⟩ | ⟨hlast, _, h⟩ | ⟨hlast, _, _, h⟩ | ⟨hlast, _, _, h⟩ <;> rw [h]
  · exact congrArg (u.run.row.toNat * imageW u + ·) hcol'
  · exact congrArg (u.run.row.toNat * imageW u + ·) ((toNat_ofNat_imageW u).trans hlast.symm)
  · exact (emitted_rowStart rfl).trans (hend hlast)
  · exact (emitted_rowStart rfl).trans (hend hlast)

end

/-- PAD_SKIP takes one byte, and the last one completes the stride of the row. -/
theorem taken_skipPad {u : State} (h : Inv u) (hfsm : u.run.fsm = .pad) : taken (skipPad u) = taken u + 1 := by
  obtain ⟨hleft, _, hrow⟩ := h.pad hfsm
  obtain ⟨hw, hacc⟩ := h.pad_row hfsm
  have hstride := four_le_stride (runningStatus_of_inv h (by simp [hfsm])) hw
  have hrow' : (u.run.row + 1).toNat = u.run.row.toNat + 1 := toNat_succ_of_lt (magnitude_le _) hrow
  have hend : u.run.padLeft - 1 = 0 →
      (u.run.row + 1).toNat * stride u.status.fmt (imageW u) = taken u + 1 := by
    intro hlast
    have hone : u.run.padLeft.toNat = 1 := congrArg BitVec.toNat ((sub_one_eq_zero_iff _).mp hlast)
    rw [hrow', Nat.succ_mul, taken_pad hfsm, hone]
    omega
  rcases skipPad_cases u with ⟨_, hs⟩ | ⟨hlast, _, hs⟩ | ⟨hlast, _, hs⟩ <;> rw [hs]
  · have hmore : taken { u with run.padLeft := u.run.padLeft - 1 } =
        u.run.row.toNat * stride u.status.fmt (imageW u) + (stride u.status.fmt (imageW u) - (u.run.padLeft - 1).toNat) :=
      taken_pad (t := { u with run.padLeft := u.run.padLeft - 1 }) hfsm
    have hleft' : (u.run.padLeft - 1).toNat = u.run.padLeft.toNat - 1 := by bv_omega
    rw [hmore, taken_pad hfsm, hleft']
    omega
  · exact (taken_rowStart (t := { u with run := nextRow .pix u.run }) nofun rfl hacc).trans (hend hlast)
  · exact (taken_rowStart (t := { u with run := nextRow .idle u.run, status.done := true }) nofun rfl hacc).trans
      (hend hlast)

theorem emitted_skipPad {u : State} (h : Inv u) (hfsm : u.run.fsm = .pad) : emitted (skipPad u) = emitted u := by
  obtain ⟨_, hcol, hrow⟩ := h.pad hfsm
  have hrow' : (u.run.row + 1).toNat = u.run.row.toNat + 1 := toNat_succ_of_lt (magnitude_le _) hrow
  have hend : (u.run.row + 1).toNat * imageW u = emitted u := by
    rw [hrow', emitted, hcol, Nat.succ_mul]
  rcases skipPad_cases u with ⟨_, hs⟩ | ⟨_, _, hs⟩ | ⟨_, _, hs⟩ <;> rw [hs]
  · rfl
  · exact (emitted_rowStart rfl).trans hend
  · exact (emitted_rowStart rfl).trans hend

/-! ### How far a run can come -/

/-- A part of row r lies below the end of row h - 1. -/
theorem mul_add_le_mul {r h n x : Nat} (hr : r < h) (hx : x ≤ n) : r * n + x ≤ h * n :=
  calc r * n + x ≤ r * n + n := Nat.add_le_add_left hx _
    _ = (r + 1) * n := (Nat.succ_mul r n).symm
    _ ≤ h * n := Nat.mul_le_mul_right n hr

theorem mul_add_lt_mul {r h n x : Nat} (hr : r < h) (hx : x < n) : r * n + x < h * n := mul_add_le_mul hr hx

theorem requiredNow_eq_mul (t : State) : requiredNow t = imageH t * stride t.status.fmt (imageW t) := Nat.mul_comm _ _

/-- The bytes of the columns up to the end of the current pixel are bytes of the row. -/
theorem pixel_le_stride {t : State} (h : Inv t) (hfsm : t.run.fsm = .pix) :
    rowBytes t.status.fmt t.run.col.toNat + (need t.status.fmt t.run.nibph).val ≤ stride t.status.fmt (imageW t) := by
  obtain ⟨_, hcol, _⟩ := h.pix hfsm
  rw [← rowBytes_succ (runningStatus_of_inv h (by simp [hfsm])) (h.parity hfsm)]
  exact (rowBytes_mono _ hcol).trans (Nat.le_add_right _ _)

theorem accN_eq_need {t : State} (hfull : full t = true) : t.run.accN = need t.status.fmt t.run.nibph := by
  simpa [full] using hfull

theorem accN_lt_need {t : State} (h : Inv t) (hfsm : t.run.fsm = .pix) (hfull : full t = false) :
    t.run.accN.val < (need t.status.fmt t.run.nibph).val := by
  obtain ⟨hacc, _, _⟩ := h.pix hfsm
  have hne : t.run.accN ≠ need t.status.fmt t.run.nibph := by simpa [full] using hfull
  exact Fin.lt_def.mp (lt_of_le_of_ne hacc hne)

/-- While a pixel is short of bytes, the image is. -/
theorem taken_lt_of_not_full {t : State} (h : Inv t) (hfsm : t.run.fsm = .pix) (hfull : full t = false) :
    taken t < requiredNow t := by
  obtain ⟨_, _, hrow⟩ := h.pix hfsm
  have hlt := accN_lt_need h hfsm hfull
  have hpixel := pixel_le_stride h hfsm
  rw [taken_pix hfsm, requiredNow_eq_mul]
  exact mul_add_lt_mul hrow (by omega)

theorem taken_le_of_pix {t : State} (h : Inv t) (hfsm : t.run.fsm = .pix) : taken t ≤ requiredNow t := by
  obtain ⟨hacc, _, hrow⟩ := h.pix hfsm
  have hle := Fin.le_def.mp hacc
  have hpixel := pixel_le_stride h hfsm
  rw [taken_pix hfsm, requiredNow_eq_mul]
  exact mul_add_le_mul hrow (by omega)

/-- In padding the last bytes of the row are still to be taken. -/
theorem taken_lt_of_pad {t : State} (h : Inv t) (hfsm : t.run.fsm = .pad) : taken t < requiredNow t := by
  obtain ⟨hleft, _, hrow⟩ := h.pad hfsm
  obtain ⟨hw, _⟩ := h.pad_row hfsm
  have hstride := four_le_stride (runningStatus_of_inv h (by simp [hfsm])) hw
  rw [taken_pad hfsm, requiredNow_eq_mul]
  exact mul_add_lt_mul hrow (by omega)

/-- While the block is busy the image has a byte or a beat left (R199). -/
theorem progress_lt_of_busy {t : State} (h : Inv t) (hbusy : t.run.fsm ≠ .idle) :
    taken t + emitted t < requiredNow t + imageW t * imageH t := by
  rw [Nat.mul_comm (imageW t)]
  cases hfsm : t.run.fsm with
  | idle => exact absurd hfsm hbusy
  | pix =>
    obtain ⟨_, hcol, hrow⟩ := h.pix hfsm
    exact Nat.add_lt_add_of_le_of_lt (taken_le_of_pix h hfsm) (mul_add_lt_mul hrow hcol)
  | pad =>
    obtain ⟨_, hcol, hrow⟩ := h.pad hfsm
    exact Nat.add_lt_add_of_lt_of_le (taken_lt_of_pad h hfsm) (mul_add_le_mul hrow hcol.le)

end Sys2Proof.Proofs
end

section
/-! PROOFS. The pixel in progress: what the block holds of its bytes, that the EMIT step selected computes the image's pixel at the
current position, and that its beat is the image's (R112 to R121, R135). -/

namespace Sys2Proof.Proofs

open Sys2Proof.Machine Sys2Proof.Laws

/-! ### The current pixel (R56, R61) -/

/-- The byte at an offset from the start of the current stored row. -/
def rowByte (bytes : List Byte) (t : State) (k : Nat) : Byte :=
  dataByte bytes (t.run.row.toNat * stride t.status.fmt (imageW t) + k)

/-- What the block holds of the pixel data: in S.acc the bytes taken of the current pixel, and in S.nib the byte that an odd
column of IDX4 shares with the one before. -/
structure HoldsPixel (bytes : List Byte) (t : State) : Prop where
  acc : ∀ (j : Nat) (hj : j < 4), j < t.run.accN.val →
    t.run.acc[j] = rowByte bytes t (rowBytes t.status.fmt t.run.col.toNat + j)
  nib : t.run.nibph = true → t.run.nib = rowByte bytes t (t.run.col.toNat / 2)

theorem hiNibble_eq : ∀ b : Byte, BitVec.ofNat 8 (b.toNat / 16) = hiNibble b := by decide
theorem loNibble_eq : ∀ b : Byte, BitVec.ofNat 8 (b.toNat % 16) = loNibble b := by decide

section
variable {t : State} (bytes : List Byte) (col : Nat)

theorem pixelAt_idx4 (h : t.status.fmt = Fmt.idx4) : pixelAt t bytes t.run.row.toNat col =
    palPix t (if col % 2 = 0 then hiNibble (rowByte bytes t (col / 2)) else loNibble (rowByte bytes t (col / 2))) :=
  if_pos h

theorem pixelAt_idx8 (h : t.status.fmt = Fmt.idx8) :
    pixelAt t bytes t.run.row.toNat col = palPix t (rowByte bytes t col) := by
  rw [pixelAt, if_neg (by rw [h]; decide), if_pos h]
  rfl

theorem pixelAt_rgb24 (h : t.status.fmt = Fmt.rgb24) : pixelAt t bytes t.run.row.toNat col =
    { a := 0xFF, r := rowByte bytes t (3 * col + 2), g := rowByte bytes t (3 * col + 1), b := rowByte bytes t (3 * col) } := by
  rw [pixelAt, if_neg (by rw [h]; decide), if_neg (by rw [h]; decide), if_pos h]
  rfl

theorem pixelAt_rgb32 (h : t.status.fmt = Fmt.rgb32) : pixelAt t bytes t.run.row.toNat col =
    { a := if t.ctrl.alpha32Pass then rowByte bytes t (4 * col + 3) else 0xFF, r := rowByte bytes t (4 * col + 2),
      g := rowByte bytes t (4 * col + 1), b := rowByte bytes t (4 * col) } := by
  rw [pixelAt, if_neg (by rw [h]; decide), if_neg (by rw [h]; decide), if_neg (by rw [h]; decide), if_pos h]
  rfl

theorem pixelAt_bf32 (h : t.status.fmt = Fmt.bf32) : pixelAt t bytes t.run.row.toNat col =
    bf32Pixel t.cfg #v[rowByte bytes t (4 * col), rowByte bytes t (4 * col + 1), rowByte bytes t (4 * col + 2),
      rowByte bytes t (4 * col + 3)] := by
  rw [pixelAt, if_neg (by rw [h]; decide), if_neg (by rw [h]; decide), if_neg (by rw [h]; decide), if_neg (by rw [h]; decide)]
  rfl

end

/-- The EMIT step that a full pixel selects computes the image's pixel at the current position (R113 to R121). -/
theorem emitPixel_eq_pixelAt {bytes : List Byte} {t : State} {i : Instr} (h : Inv t) (hfsm : t.run.fsm = .pix)
    (hfull : full t = true) (hold : HoldsPixel bytes t) (hi : decodeStepsel (stepsel t) = .ok i) :
    emitPixel t i = some (pixelAt t bytes t.run.row.toNat t.run.col.toNat) := by
  have hneed := accN_eq_need hfull
  have hst := runningStatus_of_inv h (by simp [hfsm])
  have hacc := hold.acc
  rw [hneed] at hacc
  rw [stepsel, hfull, hfsm, stepsel_decode] at hi
  rcases format_cases t.status.fmt hst.fmt_ne hst.fmt_le with hf | hf | hf | hf | hf
  · have hparity := h.parity hfsm hf
    rw [pixelAt_idx4 bytes _ hf]
    cases hnib : t.run.nibph with
    | false =>
      simp only [hf, hnib, rowBytes_idx4] at hi hacc hparity
      obtain rfl : Instr.emitIdx4Hi = i := Except.ok.inj hi
      have hbyte := hacc 0 (by decide) (by decide)
      have heven : t.run.col.toNat % 2 = 0 := by simpa using hparity
      have hhalf : (t.run.col.toNat + 1) / 2 + 0 = t.run.col.toNat / 2 := by omega
      rw [emitPixel, hbyte, hhalf, hiNibble_eq, if_pos heven]
      rfl
    | true =>
      simp only [hf, hnib] at hi hparity
      obtain rfl : Instr.emitIdx4Lo = i := Except.ok.inj hi
      have hodd : ¬t.run.col.toNat % 2 = 0 := by simpa using hparity
      rw [emitPixel, hold.nib hnib, loNibble_eq, if_neg hodd]
      rfl
  all_goals
    have hnib : t.run.nibph = false := Bool.eq_false_iff.mpr fun hn => by
      have hidx4 := (h.nibph hn).1
      rw [hf] at hidx4
      exact absurd hidx4 (by decide)
    simp only [hf, hnib] at hi hacc
    cases hi
  · have hbyte := hacc 0 (by decide) (by decide)
    rw [pixelAt_idx8 bytes _ hf, emitPixel, hbyte]
    rfl
  · rw [pixelAt_rgb24 bytes _ hf, emitPixel, hacc 0 (by decide) (by decide), hacc 1 (by decide) (by decide),
      hacc 2 (by decide) (by decide)]
    rfl
  · rw [pixelAt_rgb32 bytes _ hf, emitPixel, hacc 0 (by decide) (by decide), hacc 1 (by decide) (by decide),
      hacc 2 (by decide) (by decide), hacc 3 (by decide) (by decide)]
    rfl
  · rw [pixelAt_bf32 bytes _ hf, emitPixel, hacc 0 (by decide) (by decide), hacc 1 (by decide) (by decide),
      hacc 2 (by decide) (by decide), hacc 3 (by decide) (by decide), bf32Pixel, bytes32_eq_append]
    rfl

/-! ### The beat of the current pixel (R112, R135) -/

/-- The last column of a row is where the number of the next beat is a multiple of W. -/
theorem eol_iff {w row col : Nat} (hcol : col < w) : (row * w + col + 1) % w = 0 ↔ col + 1 = w := by
  rw [Nat.add_assoc, Nat.mul_add_mod_self_right]
  constructor
  · intro hmod
    by_contra hne
    rw [Nat.mod_eq_of_lt (by omega)] at hmod
    omega
  · rintro rfl
    exact Nat.mod_self _

/-- The last pixel of the last row is the last of the W·H beats. -/
theorem eof_iff {w h row col : Nat} (hcol : col < w) (hrow : row < h) :
    row * w + col + 1 = w * h ↔ col + 1 = w ∧ row + 1 = h := by
  rw [Nat.mul_comm w]
  constructor
  · intro hend
    have hlast : row + 1 = h := by
      by_contra hne
      have hlt : (row + 1) * w + 0 < h * w := mul_add_lt_mul (by omega) (by omega)
      rw [Nat.succ_mul] at hlt
      omega
    rw [← hlast, Nat.succ_mul] at hend
    omega
  · rintro ⟨hw, rfl⟩
    rw [Nat.add_assoc, hw, Nat.succ_mul]

theorem beatOf_eq_imageBeat {bytes : List Byte} {t : State} (hcol : t.run.col.toNat < imageW t)
    (hrow : t.run.row.toNat < imageH t) :
    beatOf (pixelAt t bytes t.run.row.toNat t.run.col.toNat) t = imageBeat t bytes (emitted t) := by
  have hw : 0 < imageW t := Nat.zero_lt_of_lt hcol
  have hdiv : emitted t / imageW t = t.run.row.toNat := by
    rw [emitted, Nat.add_comm, Nat.add_mul_div_right _ _ hw, Nat.div_eq_of_lt hcol, Nat.zero_add]
  have hmod : emitted t % imageW t = t.run.col.toNat := by
    rw [emitted, Nat.mul_add_mod_self_right, Nat.mod_eq_of_lt hcol]
  have heol : eolAt t = decide ((emitted t + 1) % imageW t = 0) := decide_eq_decide.mpr (eol_iff hcol).symm
  have heof : eofAt t = decide (emitted t + 1 = imageW t * imageH t) :=
    (Bool.decide_and _ _).symm.trans (decide_eq_decide.mpr (eof_iff hcol hrow).symm)
  rw [beatOf, heol, heof, imageBeat, hdiv, hmod]

/-- The beats of an image depend on the format, CTRL, the configuration and the palette only. -/
theorem imageBeat_congr {s t : State} (hctrl : t.ctrl = s.ctrl) (hfmt : t.status.fmt = s.status.fmt) (hcfg : t.cfg = s.cfg)
    (hpal : t.pal = s.pal) (bytes : List Byte) (n : Nat) : imageBeat t bytes n = imageBeat s bytes n := by
  have hw := imageW_of_cfg hcfg
  have hh := imageH_of_cfg hcfg
  simp only [imageBeat, pixelAt, palPix, hctrl, hfmt, hcfg, hpal, hw, hh]

end Sys2Proof.Proofs
end

section
/-! PROOFS. A run from its START to DONE (R134, R135): the states it goes through, that each step of UNPACKER leads from one to the
next, and the image at its end. -/

namespace Sys2Proof.Proofs

open Sys2Proof.Machine Sys2Proof.Laws

/-! ### What the row sequencing does to the end of a run and to the current pixel -/

/-- A run in progress has STATUS as it began; once idle it has DONE, ROW = H and COL = 0 (R133). -/
structure RunOutcome (st : Status) (t : State) : Prop where
  status : t.status = { st with done := decide (t.run.fsm = .idle) }
  ended : t.run.fsm = .idle → t.run.row.toNat = imageH t ∧ t.run.col = 0

/-- A busy state with STATUS unchanged since the run was not DONE. -/
theorem runOutcome_busy {st : Status} {t : State} (hdone : st.done = false) (hbusy : t.run.fsm ≠ .idle)
    (hst : t.status = st) : RunOutcome st t := by
  refine ⟨?_, fun hidle => absurd hidle hbusy⟩
  rw [hst, decide_eq_false hbusy, ← hdone]

theorem runOutcome_advance {u : State} (hdone : u.status.done = false) (hfsm : u.run.fsm = .pix) :
    RunOutcome u.status (advance u) := by
  rcases advance_cases u with ⟨_, h⟩ | ⟨_, _, h⟩ | ⟨_, _, _, h⟩ | ⟨_, _, hrow, h⟩ <;> rw [h]
  · exact runOutcome_busy hdone (by simp [hfsm]) rfl
  · exact runOutcome_busy hdone nofun rfl
  · exact runOutcome_busy hdone nofun rfl
  · exact ⟨rfl, fun _ => ⟨hrow, rfl⟩⟩

theorem runOutcome_skipPad {u : State} (hdone : u.status.done = false) (hfsm : u.run.fsm = .pad) :
    RunOutcome u.status (skipPad u) := by
  rcases skipPad_cases u with ⟨_, h⟩ | ⟨_, _, h⟩ | ⟨_, hrow, h⟩ <;> rw [h]
  · exact runOutcome_busy hdone (by simp [hfsm]) rfl
  · exact runOutcome_busy hdone nofun rfl
  · exact ⟨rfl, fun _ => ⟨hrow, rfl⟩⟩

/-- With no byte of the pixel taken yet, only a kept nibble byte is held. -/
theorem holdsPixel_of_empty {bytes : List Byte} {t : State} (hacc : t.run.accN = 0)
    (hnib : t.run.nibph = true → t.run.nib = rowByte bytes t (t.run.col.toNat / 2)) : HoldsPixel bytes t := by
  refine ⟨fun j _ hlt => ?_, hnib⟩
  rw [hacc] at hlt
  exact absurd hlt (Nat.not_lt_zero j)

/-- `advance()` empties S.acc, and S.nib is held in the row for the next column only. -/
theorem holdsPixel_advance {bytes : List Byte} {u : State} (hcol : u.run.col.toNat < imageW u)
    (hnib : u.run.nibph = true → u.run.nib = rowByte bytes u ((u.run.col.toNat + 1) / 2)) :
    HoldsPixel bytes (advance u) := by
  have hcol' : (u.run.col + 1).toNat = u.run.col.toNat + 1 := toNat_succ_of_lt (magnitude_le _) hcol
  rcases advance_cases u with ⟨_, h⟩ | ⟨_, _, h⟩ | ⟨_, _, _, h⟩ | ⟨_, _, _, h⟩ <;> rw [h]
  · rw [← hcol'] at hnib
    exact holdsPixel_of_empty rfl hnib
  · exact holdsPixel_of_empty rfl nofun
  · exact holdsPixel_of_empty rfl nofun
  · exact holdsPixel_of_empty rfl nofun

theorem holdsPixel_skipPad {bytes : List Byte} {u : State} (h : Inv u) (hfsm : u.run.fsm = .pad) :
    HoldsPixel bytes (skipPad u) := by
  obtain ⟨_, hacc⟩ := h.pad_row hfsm
  have hnib := nibph_of_not_pix h (by simp [hfsm])
  rcases skipPad_cases u with ⟨_, hs⟩ | ⟨_, _, hs⟩ | ⟨_, _, hs⟩ <;> rw [hs] <;>
    exact holdsPixel_of_empty hacc fun hn => absurd (hnib.symm.trans hn) Bool.false_ne_true

/-- The byte that is taken goes to the next place of S.acc (R111). -/
theorem holdsPixel_storeAcc {bytes : List Byte} {u : State} {n : Fin 5} (hold : HoldsPixel bytes u)
    (hn : n.val = u.run.accN.val + 1) :
    HoldsPixel bytes
      (storeAcc (rowByte bytes u (rowBytes u.status.fmt u.run.col.toNat + u.run.accN.val)) n u) := by
  refine ⟨fun j hj hlt => ?_, hold.nib⟩
  have hlt : j < n.val := hlt
  change (u.run.acc.setIfInBounds _ _)[j] = _
  rw [Vector.getElem_setIfInBounds hj]
  split
  · next heq => rw [← heq]; rfl
  · next hne => exact hold.acc j hj (by omega)

/-- Only a high-nibble pixel leaves the nibble phase set, and it keeps its byte (R114). -/
theorem emitNibble_nib {r : Run} {i : Instr} (hr : r.nibph = false) (h : (emitNibble r i).nibph = true) :
    (emitNibble r i).nib = r.acc[0] := by
  cases i with
  | emitIdx4Hi => rfl
  | emitIdx4Lo => cases h
  | _ => cases hr.symm.trans h

/-! ### The states of a run -/

/-- `t` is a state of the run that began in `s`: it has taken the first bytes offered and handed over the first beats of the
image, and all else but the run state and the final DONE is as it was. -/
structure OnTrack (s t : State) : Prop where
  inv : Inv t
  ctrl : t.ctrl = s.ctrl
  cfg : t.cfg = s.cfg
  pal : t.pal = s.pal
  outcome : RunOutcome s.status t
  env : t.env =
    { s.env with
      inQ := s.env.inQ.drop (taken t),
      outQ := s.env.outQ ++ (List.range (emitted t)).map (imageBeat s s.env.inQ) }
  holds : HoldsPixel s.env.inQ t

/-- The state in which a run begins (R103). -/
structure AtStart (s : State) : Prop where
  fsm : s.run.fsm = .pix
  row : s.run.row = 0
  col : s.run.col = 0
  accN : s.run.accN = 0
  nibph : s.run.nibph = false

theorem AtStart.taken {s : State} (h : AtStart s) : taken s = 0 := by
  rw [taken_rowStart (by simp [h.fsm]) h.col h.accN, h.row]
  exact Nat.zero_mul _

theorem AtStart.emitted {s : State} (h : AtStart s) : emitted s = 0 := by
  rw [emitted_rowStart h.col, h.row]
  exact Nat.zero_mul _

theorem AtStart.onTrack {s : State} (h : AtStart s) (hinv : Inv s) : OnTrack s s where
  inv := hinv
  ctrl := rfl
  cfg := rfl
  pal := rfl
  outcome := runOutcome_busy (runningStatus_of_inv hinv (by simp [h.fsm])).done (by simp [h.fsm]) rfl
  env := by rw [h.taken, h.emitted, List.range_zero, List.map_nil, List.append_nil, List.drop_zero]
  holds := holdsPixel_of_empty h.accN fun hn => absurd (h.nibph.symm.trans hn) Bool.false_ne_true

section
variable {s t : State} (h : OnTrack s t)
include h

theorem OnTrack.fmt : t.status.fmt = s.status.fmt := by rw [h.outcome.status]

theorem OnTrack.requiredNow_same : requiredNow t = requiredNow s := by
  rw [requiredNow, requiredNow, h.fmt, imageW_of_cfg h.cfg, imageH_of_cfg h.cfg]

theorem OnTrack.inQ : t.env.inQ = s.env.inQ.drop (taken t) := by rw [h.env]

theorem OnTrack.outQ : t.env.outQ = s.env.outQ ++ (List.range (emitted t)).map (imageBeat s s.env.inQ) := by rw [h.env]

theorem OnTrack.running (hbusy : t.run.fsm ≠ .idle) : t.status.done = false :=
  (runningStatus_of_inv h.inv hbusy).done

/-- The outcome of a step that goes on from `t`. -/
theorem OnTrack.outcome_of_step {t' : State} (h' : RunOutcome t.status t') : RunOutcome s.status t' := by
  refine ⟨?_, h'.ended⟩
  rw [h'.status, h.outcome.status]

end

/-! ### Taking a byte within a run -/

/-- The head of what is left of the pixel data is its next byte. -/
theorem drop_eq_cons {bytes rest : List Byte} {b : Byte} {k : Nat} (h : bytes.drop k = b :: rest) :
    dataByte bytes k = b ∧ bytes.drop (k + 1) = rest := by
  constructor
  · rw [dataByte, List.getD_eq_getElem?_getD, ← List.head?_drop, h]
    rfl
  · rw [← List.tail_drop, h]
    rfl

theorem onTrack_takeByte {s t : State} {b : Byte} {rest : List Byte} {n : Fin 5} (h : OnTrack s t)
    (hfsm : t.run.fsm = .pix) (hfull : full t = false) (hin : t.env.inQ = b :: rest) (hn : n.val = t.run.accN.val + 1) :
    OnTrack s (storeAcc b n { t with env.inQ := rest }) := by
  have hbusy : t.run.fsm ≠ .idle := by simp [hfsm]
  obtain ⟨hbyte, hrest⟩ := drop_eq_cons (h.inQ.symm.trans hin)
  have hhold : HoldsPixel s.env.inQ { t with env.inQ := rest } := ⟨h.holds.acc, h.holds.nib⟩
  refine ⟨inv_storeAcc (inv_env h.inv { t.env with inQ := rest }) hfsm hfull b hn, h.ctrl, h.cfg, h.pal,
    h.outcome_of_step (runOutcome_busy (h.running hbusy) hbusy rfl), ?_, ?_⟩
  · rw [taken_storeAcc (u := { t with env.inQ := rest }) b hfsm hn]
    change { t.env with inQ := rest } = _
    rw [h.env, ← hrest]
    rfl
  · rw [taken_pix hfsm] at hbyte
    rw [← hbyte]
    exact holdsPixel_storeAcc hhold hn

theorem onTrack_skipByte {s t : State} {b : Byte} {rest : List Byte} (h : OnTrack s t) (hfsm : t.run.fsm = .pad)
    (hin : t.env.inQ = b :: rest) : OnTrack s (skipPad { t with env.inQ := rest }) := by
  have hu : Inv { t with env.inQ := rest } := inv_env h.inv _
  obtain ⟨hctrl, hcfg, hpal, henv, _⟩ := skipPad_frame { t with env.inQ := rest }
  obtain ⟨_, hrest⟩ := drop_eq_cons (h.inQ.symm.trans hin)
  refine ⟨inv_skipPad hu hfsm, hctrl.trans h.ctrl, hcfg.trans h.cfg, hpal.trans h.pal,
    h.outcome_of_step (runOutcome_skipPad (u := { t with env.inQ := rest }) (h.running (by simp [hfsm])) hfsm), ?_,
    holdsPixel_skipPad hu hfsm⟩
  rw [henv, taken_skipPad hu hfsm, emitted_skipPad hu hfsm]
  change { t.env with inQ := rest } = _
  rw [h.env, ← hrest]
  rfl

/-! ### An EMIT step within a run -/

section
variable {t : State} {i : Instr} (h : Inv t) (hfsm : t.run.fsm = .pix) (hfull : full t = true)
include h hfsm

theorem emit_col_lt (beat : Beat) : (outPush beat { t with run := emitNibble t.run i }).run.col.toNat <
    imageW (outPush beat { t with run := emitNibble t.run i }) := by
  obtain ⟨_, hcol, _⟩ := h.pix hfsm
  rw [outPush_run, emitNibble_col]
  exact hcol

theorem emit_row_lt (beat : Beat) : (outPush beat { t with run := emitNibble t.run i }).run.row.toNat <
    imageH (outPush beat { t with run := emitNibble t.run i }) := by
  obtain ⟨_, _, hrow⟩ := h.pix hfsm
  rw [outPush_run, emitNibble_row]
  exact hrow

theorem emitted_emit (beat : Beat) : emitted (advance (outPush beat { t with run := emitNibble t.run i })) = emitted t + 1 := by
  rw [emitted_advance (emit_col_lt h hfsm beat) (emit_row_lt h hfsm beat), emitted, outPush_run, emitNibble_row,
    emitNibble_col]
  rfl

include hfull

/-- The bytes of a full pixel are those of one more column. -/
theorem taken_emit (beat : Beat) : taken (advance (outPush beat { t with run := emitNibble t.run i })) = taken t := by
  have hneed := accN_eq_need hfull
  have hst := runningStatus_of_inv h (by simp [hfsm])
  rw [taken_advance (emit_col_lt h hfsm beat) (emit_row_lt h hfsm beat) ((emitNibble_fsm _ _).trans hfsm), taken_pix hfsm,
    hneed, ← rowBytes_succ hst (h.parity hfsm), outPush_run, emitNibble_row, emitNibble_col]
  rfl

/-- After a high-nibble pixel S.nib holds the byte that the next column shares with it. -/
theorem holdsPixel_emit {bytes : List Byte} (hold : HoldsPixel bytes t) (hi : decodeStepsel (stepsel t) = .ok i)
    (beat : Beat) : HoldsPixel bytes (advance (outPush beat { t with run := emitNibble t.run i })) := by
  have hneed := accN_eq_need hfull
  rw [stepsel, hfull, hfsm] at hi
  obtain ⟨_, hnib⟩ := isEmit_of_full_pixel hi
  refine holdsPixel_advance (emit_col_lt h hfsm beat) fun hn => ?_
  obtain ⟨hidx4, hhigh⟩ := (hnib t.run rfl).mp hn
  have hheld : 0 < t.run.accN.val := by
    rw [hneed, hidx4, hhigh]
    decide
  have hbyte := hold.acc 0 (by decide) hheld
  rw [hidx4, rowBytes_idx4, Nat.add_zero] at hbyte
  rw [outPush_run, emitNibble_col]
  refine (emitNibble_nib hhigh hn).trans (hbyte.trans ?_)
  rw [rowByte, rowByte, outPush_run, emitNibble_row]
  rfl

end

theorem onTrack_emit {s t : State} {i : Instr} {p : Pixel} (h : OnTrack s t) (hfsm : t.run.fsm = .pix)
    (hfull : full t = true) (hi : decodeStepsel (stepsel t) = .ok i) (hp : emitPixel t i = some p) :
    OnTrack s (advance (outPush (beatOf p t) { t with run := emitNibble t.run i })) := by
  obtain ⟨_, hcol, hrow⟩ := h.inv.pix hfsm
  obtain ⟨hctrl, hcfg, hpal, henv, _⟩ := advance_frame (outPush (beatOf p t) { t with run := emitNibble t.run i })
  have hbeat : beatOf p t = imageBeat s s.env.inQ (emitted t) := by
    cases hp.symm.trans (emitPixel_eq_pixelAt h.inv hfsm hfull h.holds hi)
    rw [beatOf_eq_imageBeat hcol hrow, imageBeat_congr h.ctrl h.fmt h.cfg h.pal]
  have houtcome := runOutcome_advance (u := outPush (beatOf p t) { t with run := emitNibble t.run i })
    (h.running (by simp [hfsm])) ((emitNibble_fsm _ _).trans hfsm)
  refine ⟨inv_emit h.inv hfsm hfull hi _, hctrl.trans h.ctrl, hcfg.trans h.cfg, hpal.trans h.pal,
    h.outcome_of_step houtcome, ?_, holdsPixel_emit h.inv hfsm hfull h.holds hi _⟩
  rw [henv, taken_emit h.inv hfsm hfull, emitted_emit h.inv hfsm, outPush_env, h.env, hbeat, List.range_succ,
    List.map_append, ← List.append_assoc]
  rfl

/-! ### UNPACKER's step on an empty schedule (log entry 1) -/

theorem step_takeByte {t : State} {b : Byte} {rest : List Byte} (hsched : t.env.sched = []) (hfsm : t.run.fsm = .pix)
    (hfull : full t = false) (hin : t.env.inQ = b :: rest) (hroom : t.run.accN.val + 1 < 5) :
    step t = .next (storeAcc b ⟨t.run.accN.val + 1, hroom⟩ { t with env.inQ := rest }) := by
  have hi : decodeStepsel (stepsel t) = .ok (.inByte t.status.fmt t.run.nibph) := by
    rw [stepsel, hfull, hfsm, stepsel_decode]
    rfl
  rw [step_unpacker_ok (nextTurn_fst_nil hsched) hi, afterTurn_nil hsched, exec_inByte_cons _ _ hin hroom]

theorem step_skipByte {t : State} {b : Byte} {rest : List Byte} (hsched : t.env.sched = []) (hfsm : t.run.fsm = .pad)
    (hin : t.env.inQ = b :: rest) : step t = .next (skipPad { t with env.inQ := rest }) := by
  have hi : decodeStepsel (stepsel t) = .ok (.padSkip (full t) t.status.fmt t.run.nibph) := by
    rw [stepsel, hfsm, stepsel_decode]
  rw [step_unpacker_ok (nextTurn_fst_nil hsched) hi, afterTurn_nil hsched, exec_padSkip_cons _ _ _ hin]

theorem step_emit {t : State} {i : Instr} {p : Pixel} (hsched : t.env.sched = []) (hsink : t.env.sinkReady = true)
    (hi : decodeStepsel (stepsel t) = .ok i) (hp : emitPixel t i = some p) :
    step t = .next (advance (outPush (beatOf p t) { t with run := emitNibble t.run i })) := by
  rw [step_unpacker_ok (nextTurn_fst_nil hsched) hi, afterTurn_nil hsched, exec_emit hp hsink]

/-- In a state that meets the invariant the selector decodes to a row (R79). -/
theorem exists_selected {t : State} (h : Inv t) : ∃ i, decodeStepsel (stepsel t) = .ok i := by
  cases hdec : decodeStepsel (stepsel t) with
  | ok i => exact ⟨i, rfl⟩
  | error e =>
    cases e
    rw [stepsel, decodeStepsel_error_iff] at hdec
    obtain ⟨hpix, _, hidx4, hnib | hnone | hsix⟩ := hdec
    · exact absurd (h.nibph hnib).1 hidx4
    · exact absurd hnone (runningStatus_of_inv h (by simp [hpix])).fmt_ne
    · exact absurd h.fmt_code (by omega)

/-! ### From START to DONE (R134, R135) -/

/-- What a run is given: its bytes, a ready SINK, and no turn of another agent. -/
structure LeftToItself (s : State) : Prop where
  sched : s.env.sched = []
  sink : s.env.sinkReady = true
  bytes : requiredNow s ≤ s.env.inQ.length

/-- While the image needs a byte, one is on offer. -/
theorem OnTrack.exists_byte {s t : State} (h : OnTrack s t) (hs : LeftToItself s) (hlt : taken t < requiredNow t) :
    ∃ b rest, t.env.inQ = b :: rest := by
  have hne : t.env.inQ ≠ [] := by
    rw [h.inQ, ne_eq, List.drop_eq_nil_iff]
    have hbytes := hs.bytes
    rw [← h.requiredNow_same] at hbytes
    omega
  exact List.exists_cons_of_ne_nil hne

/-- Each step of a run in progress stays on track and takes one byte or hands over one beat (R199). -/
theorem OnTrack.exists_step {s t : State} (h : OnTrack s t) (hs : LeftToItself s) (hbusy : t.run.fsm ≠ .idle) :
    ∃ t', step t = .next t' ∧ OnTrack s t' ∧ taken t' + emitted t' = taken t + emitted t + 1 := by
  have hsched : t.env.sched = [] := by rw [h.env, hs.sched]
  cases hfsm : t.run.fsm with
  | idle => exact absurd hfsm hbusy
  | pad =>
    obtain ⟨b, rest, hin⟩ := h.exists_byte hs (taken_lt_of_pad h.inv hfsm)
    have hu : Inv { t with env.inQ := rest } := inv_env h.inv _
    refine ⟨_, step_skipByte hsched hfsm hin, onTrack_skipByte h hfsm hin, ?_⟩
    rw [taken_skipPad hu hfsm, emitted_skipPad hu hfsm]
    exact Nat.add_right_comm _ _ _
  | pix =>
    cases hfull : full t with
    | false =>
      obtain ⟨b, rest, hin⟩ := h.exists_byte hs (taken_lt_of_not_full h.inv hfsm hfull)
      have hroom : t.run.accN.val + 1 < 5 :=
        Nat.lt_of_le_of_lt (accN_lt_need h.inv hfsm hfull) (need t.status.fmt t.run.nibph).isLt
      refine ⟨_, step_takeByte hsched hfsm hfull hin hroom, onTrack_takeByte h hfsm hfull hin rfl, ?_⟩
      rw [taken_storeAcc (u := { t with env.inQ := rest }) b hfsm rfl]
      exact Nat.add_right_comm _ _ _
    | true =>
      have hsink : t.env.sinkReady = true := by rw [h.env, hs.sink]
      obtain ⟨i, hi⟩ := exists_selected h.inv
      have hp := emitPixel_eq_pixelAt h.inv hfsm hfull h.holds hi
      refine ⟨_, step_emit hsched hsink hi hp, onTrack_emit h hfsm hfull hi hp, ?_⟩
      rw [taken_emit h.inv hfsm hfull, emitted_emit h.inv hfsm]
      rfl

/-- At the end of a run every byte is taken and every beat handed over. -/
theorem OnTrack.totals {s t : State} (h : OnTrack s t) (hidle : t.run.fsm = .idle) :
    taken t = requiredNow s ∧ emitted t = imageW s * imageH s := by
  obtain ⟨hrow, hcol⟩ := h.outcome.ended hidle
  constructor
  · rw [taken_idle hidle, hrow, ← h.requiredNow_same, requiredNow_eq_mul]
  · rw [emitted_rowStart hcol, hrow, imageW_of_cfg h.cfg, imageH_of_cfg h.cfg, Nat.mul_comm]

/-- A run ends after as many steps as it has bytes and beats left. -/
theorem OnTrack.runs_to_idle {s : State} (hs : LeftToItself s) : ∀ (k : Nat) (t : State), OnTrack s t →
    taken t + emitted t + k = requiredNow s + imageW s * imageH s →
    ∃ t', core.run k t = .next t' ∧ OnTrack s t' ∧ t'.run.fsm = .idle
  | 0, t, h, hk => by
    refine ⟨t, rfl, h, ?_⟩
    by_contra hbusy
    have hlt := progress_lt_of_busy h.inv hbusy
    rw [h.requiredNow_same, imageW_of_cfg h.cfg, imageH_of_cfg h.cfg] at hlt
    omega
  | k + 1, t, h, hk => by
    have hbusy : t.run.fsm ≠ .idle := by
      intro hidle
      obtain ⟨htaken, hemitted⟩ := h.totals hidle
      omega
    obtain ⟨t', hstep, h', hprogress⟩ := h.exists_step hs hbusy
    rw [run_next hstep]
    exact OnTrack.runs_to_idle hs k t' h' (by omega)

/-- A START that begins a run leaves the counters at 0 (R99, R103). -/
theorem atStart_of_exec {data : Word} {s₀ s : State} (hwf : (Instr.wrCtrlStart data).wf = true)
    (hidle : s₀.run.fsm = .idle) (hexec : exec (.wrCtrlStart data) s₀ = .next s) (hfsm : s.run.fsm = .pix) :
    AtStart s ∧ BusEffect s₀ (.wrCtrlStart data) s := by
  rw [exec_wrCtrlStart, writeCtrl_idle data s₀ hidle, if_pos (start_bit_of_wf hwf)] at hexec
  cases hexec
  refine ⟨?_, .start data hidle⟩
  rw [startCheck] at hfsm ⊢
  rcases startSelected_cases (fmtOf s₀.cfg.compression s₀.cfg.bpp) { s₀ with ctrl := ctrlOfData data } with
    ⟨_, hs⟩ | ⟨_, _, hs⟩ | ⟨_, _, hs⟩ | ⟨_, _, _, _, hs⟩ <;> rw [hs] at hfsm ⊢
  · cases hidle.symm.trans hfsm
  · cases hidle.symm.trans hfsm
  · cases hidle.symm.trans hfsm
  · exact ⟨rfl, rfl, rfl, rfl, rfl⟩

/-- Settles O54: the first state of a run has req + W·H steps left, and a state on track that is idle has handed over the whole
image. -/
theorem runEmitsTheImage : Obligations.RunEmitsTheImage := by
  intro d s₀ s hinv hwf hidle hexec hfsm hsched hsink hbytes
  obtain ⟨hstart, heffect⟩ := atStart_of_exec hwf hidle hexec hfsm
  have hleft : taken s + emitted s + (requiredNow s + imageW s * imageH s) = requiredNow s + imageW s * imageH s := by
    rw [hstart.taken, hstart.emitted, Nat.add_zero, Nat.zero_add]
  obtain ⟨t, hrun, h, hend⟩ :=
    OnTrack.runs_to_idle ⟨hsched, hsink, hbytes⟩ _ s (hstart.onTrack (inv_busEffect hinv heffect)) hleft
  obtain ⟨hrow, hcol⟩ := h.outcome.ended hend
  obtain ⟨htaken, hemitted⟩ := h.totals hend
  refine ⟨t, hrun, ?_, ?_, hend, ?_, hcol, ?_, h.ctrl, h.cfg, h.pal, ?_⟩
  · rw [h.outQ, hemitted, imageBeats]
  · rw [h.inQ, htaken]
  · rw [hrow, imageH_of_cfg h.cfg]
  · rw [h.outcome.status, decide_eq_true hend]
  · rw [h.env]

end Sys2Proof.Proofs
end

section
/-! PROOFS. The statement of spec/43_channel_reorder.md: the byte order of a packed pixel (R138). -/

namespace Sys2Proof.Proofs

open Sys2Proof.Machine Sys2Proof.Laws

/-! ### The packed pixel, one byte order each (R138) -/

theorem pack_argb (p : Pixel) : pack p false = p.b ++ p.g ++ p.r ++ p.a := by
  rw [pack, if_neg Bool.false_ne_true, bytes32_eq_append]

theorem pack_rgba (p : Pixel) : pack p true = p.a ++ p.b ++ p.g ++ p.r := by
  rw [pack, if_pos rfl, bytes32_eq_append]

/-- Settles O31: each order is one assembly of R13, and that is the concatenation with its first byte lowest. -/
theorem packOrdersTheBytes : Obligations.PackOrdersTheBytes :=
  fun _ _ _ _ => ⟨pack_argb _, pack_rgba _⟩

end Sys2Proof.Proofs
end

section
/-! PROOFS. The statements of spec/44_host_bus.md: the value each address reads as (R145, R146), what each bus write stores or
ignores (R147 to R154), the soft reset (R157), the life of IGNWR (R148), and a rewind of SRC (R158). -/

namespace Sys2Proof.Proofs

open Sys2Proof.Machine Sys2Proof.Laws

/-! ### Which addresses are mapped (R81, R153) -/

/-- Every CSR of R20 and every palette entry stands at a multiple of four. -/
theorem aligned_of_isMappedAddr {a : CsrAddr} (h : isMappedAddr a = true) : a.extractLsb' 0 2 = 0 := by
  simp only [isMappedAddr, inPaletteWindow, Bool.or_eq_true, Bool.and_eq_true, beq_iff_eq, or_assoc] at h
  rcases h with rfl | rfl | rfl | rfl | rfl | rfl | rfl | rfl | rfl | rfl | rfl | rfl | rfl | rfl | ⟨_, haligned⟩
  case inr => exact haligned
  all_goals rfl

theorem not_isMappedAddr_of_misaligned {a : CsrAddr} (h : a.extractLsb' 0 2 ≠ 0) : isMappedAddr a = false :=
  Bool.eq_false_iff.mpr fun hmapped => h (aligned_of_isMappedAddr hmapped)

/-! ### The value of an address (R146) -/

theorem readValue_of_not_mapped {a : CsrAddr} (h : isMappedAddr a = false) (s : State) : readValue s a = 0 := by
  simp only [isMappedAddr, inPaletteWindow_eq, Bool.or_eq_false_iff, beq_eq_false_iff_ne] at h
  simp only [readValue, h, Bool.false_eq_true, if_false]

/-- No CSR stands in the palette window. -/
theorem readValue_of_isPaletteAddr {a : CsrAddr} (h : isPaletteAddr a = true) (s : State) :
    readValue s a = s.pal.read (paletteEntry a) := by
  unfold readValue
  iterate 14 rw [if_neg (by rintro rfl; exact absurd h (by decide))]
  rw [if_pos h]

theorem readValue_paletteAddr (s : State) (e : Byte) : readValue s (paletteAddr e) = s.pal.read e := by
  rw [readValue_of_isPaletteAddr (isPaletteAddr_paletteAddr e), paletteEntry_paletteAddr]

/-- A byte that HOST has not written reads as its byte of PAL_INIT, whatever else the palette holds (R33). -/
theorem readByte_of_unwritten {p : Palette} {a : Nat} (h : Memory.find a p.mem = none) :
    p.readByte a = ({ mem := [], draw := p.draw } : Palette).readByte a := by
  rw [Palette.readByte, h]
  rfl

theorem read_of_unwritten {p : Palette} {e : Byte} (h : ∀ k, k < 4 → Memory.find (palByteAddr e + k) p.mem = none) :
    p.read e = Config.palInit p.draw e := by
  have hbyte (k : Nat) (hk : k < 4) := readByte_of_unwritten (h k hk)
  have hfirst := hbyte 0 (by decide)
  rw [Nat.add_zero] at hfirst
  rw [← read_unwritten, Palette.read, Palette.read, hfirst, hbyte 1 (by decide), hbyte 2 (by decide), hbyte 3 (by decide)]

/-- A concatenation read as a sum. -/
theorem toNat_append_eq_add {m n : Nat} (x : BitVec m) (y : BitVec n) :
    (x ++ y).toNat = x.toNat * 2 ^ n + y.toNat := by
  rw [BitVec.toNat_append, ← Nat.shiftLeft_add_eq_or_of_lt y.isLt, Nat.shiftLeft_eq]

theorem toNat_ctrlWord (c : Ctrl) : (ctrlWord c).toNat =
    c.irqEn.toNat * 2 ^ 8 + c.outOrder.toNat * 2 ^ 5 + c.alpha32Pass.toNat * 2 ^ 4 := by
  unfold ctrlWord
  simp only [toNat_append_eq_add, BitVec.toNat_ofBool, BitVec.toNat_ofNat]
  omega

theorem toNat_busy (s : State) : (busy s).toNat = if s.run.fsm = .idle then 0 else 1 := by
  unfold busy
  cases s.run.fsm <;> rfl

theorem toNat_statusWord (s : State) : (statusWord s).toNat =
    s.status.ignwr.toNat * 2 ^ 16 + s.status.fmt.toNat * 2 ^ 8 + s.status.errcode.toNat * 2 ^ 4 +
      s.status.error.toNat * 2 ^ 2 + s.status.done.toNat * 2 + (if s.run.fsm = .idle then 0 else 1) := by
  rw [← toNat_busy]
  unfold statusWord
  simp only [toNat_append_eq_add, BitVec.toNat_ofBool, BitVec.toNat_ofNat]
  omega

/-- Settles O34: an address that is misaligned is not mapped, and one that is not mapped matches no row of R146. -/
theorem busReadReturnsAndChangesNothing : Obligations.BusReadReturnsAndChangesNothing := fun _ _ s =>
  ⟨rfl, fun h => readValue_of_not_mapped h s, fun h => readValue_of_not_mapped (not_isMappedAddr_of_misaligned h) s⟩

/-- Settles O35: the two words of flags as sums of their fields, the palette by its window address, the other registers by
their row. -/
theorem readValueOfEachAddress : Obligations.ReadValueOfEachAddress := by
  intro s
  have hbpp : (s.cfg.bpp.setWidth 32).toNat = s.cfg.bpp.toNat := BitVec.toNat_setWidth_of_le (by decide)
  have hentry (e : Byte) : readValue s (0x400 + 4 * e.setWidth 12) = s.pal.read e := by
    rw [← paletteAddr_eq_add, readValue_paletteAddr]
  refine ⟨toNat_ctrlWord s.ctrl, toNat_statusWord s, hbpp, rfl, rfl, rfl, rfl, rfl, rfl, rfl, rfl, rfl, rfl, rfl,
    hentry, fun e hunwritten => ?_, fun _ h => readValue_of_not_mapped h s⟩
  rw [hentry, read_of_unwritten hunwritten]

/-! ### CTRL writes without START (R147, R148) -/

theorem exec_wrCtrl (data : Word) (s : State) : exec (.wrCtrl data) s = .next (writeCtrl data s) := rfl

/-- A word that decodes to a plain CTRL write has DATA[0] = 0. -/
theorem no_start_bit_of_wf {data : Word} (h : (Instr.wrCtrl data).wf = true) : data.getLsbD 0 = false :=
  (Bool.not_eq_true' _).mp ((Bool.and_eq_true _ _).mp h).2

/-- Settles O36: without DATA[0] an idle block stops at storing the fields. -/
theorem ctrlWriteWhileIdle : Obligations.CtrlWriteWhileIdle := by
  intro d s hwf hidle
  rw [exec_wrCtrl, writeCtrl_idle d s hidle, if_neg (Bool.eq_false_iff.mp (no_start_bit_of_wf hwf))]
  rfl

/-- A flag that two differences raise, as a case distinction on whether there is one. -/
theorem or_bne_or_bne (flag a a' o o' : Bool) :
    (flag || a != a' || o != o') = if a = a' ∧ o = o' then flag else true := by
  split
  · next h => simp [h]
  · next h =>
    rw [Bool.or_assoc, show (a != a' || o != o') = true by simpa [or_iff_not_imp_left] using h, Bool.or_true]

/-- Settles O37: without DATA[0] only a change of ALPHA32_PASS or OUT_ORDER is left to set IGNWR. -/
theorem ctrlWriteWhileBusy : Obligations.CtrlWriteWhileBusy := by
  intro d s hwf hbusy
  rw [exec_wrCtrl, writeCtrl_busy d s hbusy, no_start_bit_of_wf hwf, Bool.or_false, or_bne_or_bne]

/-! ### STATUS writes (R150) -/

theorem ackDone_eq (data : Word) (s : State) :
    ackDone data s = { s with status.done := if data.getLsbD 1 then false else s.status.done } := by
  unfold ackDone
  split <;> rfl

theorem ackError_eq (data : Word) (s : State) : ackError data s =
    { s with
      status.error := if data.getLsbD 2 then false else s.status.error,
      status.errcode := if data.getLsbD 2 then 0 else s.status.errcode } := by
  unfold ackError
  split <;> rfl

theorem ackIgnwr_eq (data : Word) (s : State) :
    ackIgnwr data s = { s with status.ignwr := if data.getLsbD 16 then false else s.status.ignwr } := by
  unfold ackIgnwr
  split <;> rfl

theorem exec_wrStatus (data : Word) (s : State) : exec (.wrStatus data) s = .next (writeStatus data s) := rfl

/-- Settles O38: the three acknowledgements one after the other, each of its own flags. -/
theorem statusWriteClearsOnes : Obligations.StatusWriteClearsOnes := by
  intro d s
  rw [exec_wrStatus, writeStatus, ackIgnwr_eq, ackError_eq, ackDone_eq]

/-! ### Configuration and palette writes (R148, R149, R151) -/

/-- Settles O39: the nine writes share one meaning. -/
theorem configWritesStoreOrAreIgnored : Obligations.ConfigWritesStoreOrAreIgnored :=
  fun _ _ s h => exec_configWrite h s

theorem exec_wrPal_idle {s : State} (e : Byte) (data : Word) (hidle : s.run.fsm = .idle) :
    exec (.wrPal e data) s = .next { s with pal := s.pal.write e data } :=
  congrArg Host.Outcome.next (if_pos hidle)

theorem exec_wrPal_busy {s : State} (e : Byte) (data : Word) (hbusy : s.run.fsm ≠ .idle) :
    exec (.wrPal e data) s = .next (setIgnwr s) :=
  congrArg Host.Outcome.next (if_neg hbusy)

theorem readByte_write_inside (p : Palette) (e : Byte) (v : Word) {k : Nat} (hk : k < 4) :
    (p.write e v).readByte (palByteAddr e + k) = byteOf k v := by
  rw [readByte_write, if_pos (by omega), Nat.add_sub_cancel_left]

theorem readByte_write_outside (p : Palette) (e : Byte) (v : Word) {a : Nat}
    (h : a < palByteAddr e ∨ palByteAddr e + 4 ≤ a) : (p.write e v).readByte a = p.readByte a := by
  rw [readByte_write, if_neg (by omega)]

/-- Settles O40: a read of the palette after a write of an entry, byte by byte and entry by entry. -/
theorem paletteWriteStoresOneEntry : Obligations.PaletteWriteStoresOneEntry := by
  refine fun e d s => ⟨fun hidle => ⟨_, exec_wrPal_idle e d hidle, rfl, palette_write_draw s.pal e d, ?same,
    fun _ hk => readByte_write_inside s.pal e d hk, fun _ ha => readByte_write_outside s.pal e d ha, fun e' hne => ?other⟩,
    fun hbusy => exec_wrPal_busy e d hbusy⟩
  case same => exact (read_write s.pal e e d).trans (if_pos rfl)
  case other => exact (read_write s.pal e e' d).trans (if_neg hne)

/-! ### Writes without effect, and the soft reset (R152 to R154, R157) -/

/-- Settles O41: the meaning of each of the four rows is the state itself. -/
theorem ignoredWritesChangeNothing : Obligations.IgnoredWritesChangeNothing := fun _ _ _ => ⟨rfl, rfl, rfl, rfl⟩

/-- Settles O42: R157's statements are those of `softClear`, with the reset values of the run state (R46). -/
theorem softResetClearsTheRun : Obligations.SoftResetClearsTheRun := fun _ _ => rfl

/-! ### IGNWR (R148) -/

theorem unpackerEffect_ignwr {s t : State} (h : UnpackerEffect s t) : t.status.ignwr = s.status.ignwr := by
  cases h with
  | idle _ | waitByte _ _ | waitSink _ _ _ | takeByte _ _ _ _ => rfl
  | @emit i p _ _ _ _ _ =>
    obtain ⟨_, _, _, _, hstatus⟩ := advance_frame (outPush (beatOf p s) { s with run := emitNibble s.run i })
    rcases hstatus with hstatus | hstatus <;> rw [hstatus] <;> rfl
  | @skipByte b rest _ _ =>
    rcases skipPad_cases { s with env.inQ := rest } with ⟨_, hs⟩ | ⟨_, _, hs⟩ | ⟨_, _, hs⟩ <;> rw [hs]

theorem startCheck_ignwr (s : State) : (startCheck s).status.ignwr = s.status.ignwr := by
  obtain ⟨_, _, _, _, hignwr⟩ := startSelected_frame (fmtOf s.cfg.compression s.cfg.bpp) s
  exact hignwr

/-- A STATUS write clears IGNWR with DATA[16], and never sets it (R150). -/
theorem writeStatus_ignwr (data : Word) (s : State) :
    (writeStatus data s).status.ignwr = if data.getLsbD 16 then false else s.status.ignwr := by
  rw [writeStatus, ackIgnwr_eq, ackError_eq, ackDone_eq]

/-- A busy CTRL write never clears IGNWR. -/
theorem writeCtrl_busy_ignwr {s : State} (data : Word) (hbusy : s.run.fsm ≠ .idle) (h : s.status.ignwr = true) :
    (writeCtrl data s).status.ignwr = true := by
  rw [writeCtrl_busy data s hbusy]
  simp [h]

/-- Only a word with WE = 0 decodes to a read (R81). -/
theorem busxWe_of_decodeBusx_ne_rd {w : Busx} (h : ∀ addr data, decodeBusx w ≠ .rd addr data) : busxWe w = true := by
  by_contra hwe
  exact h (busxAddr w) (busxData w) (if_neg hwe)

/-- The bus transactions that set IGNWR are writes to a busy block. -/
theorem busEffect_ignwr_rises {s t : State} {i : Instr} (h : BusEffect s i t) (h0 : s.status.ignwr = false)
    (h1 : t.status.ignwr = true) : s.run.fsm ≠ .idle ∧ ∀ addr data, i ≠ .rd addr data := by
  cases h with
  | ctrlBusy data hi hbusy =>
    refine ⟨hbusy, ?_⟩
    rintro addr data' rfl
    rcases hi with hi | hi <;> cases hi
  | ignoreBusy hi hbusy =>
    refine ⟨hbusy, ?_⟩
    rintro addr data rfl
    rcases hi with hi | ⟨_, _, hi⟩ <;> cases hi
  | start data hidle =>
    rw [startCheck_ignwr] at h1
    cases h0.symm.trans h1
  | softReset data => cases h1
  | ackStatus data =>
    rw [writeStatus_ignwr, h0, ite_self] at h1
    cases h1
  | read _ _ | storeCtrl _ _ | storeConfig _ _ | storePalette _ _ _ | writeNothing _ => cases h0.symm.trans h1

/-- The bus transactions that clear IGNWR are a soft reset and its acknowledgement. -/
theorem busEffect_ignwr_falls {s t : State} {i : Instr} (h : BusEffect s i t) (h1 : s.status.ignwr = true)
    (h0 : t.status.ignwr = false) :
    (∃ data, i = .wrCtrlSrst data) ∨ ∃ data, i = .wrStatus data ∧ data.getLsbD 16 = true := by
  cases h with
  | softReset data => exact .inl ⟨data, rfl⟩
  | ackStatus data =>
    refine .inr ⟨data, rfl, ?_⟩
    by_contra hkept
    rw [writeStatus_ignwr, if_neg hkept] at h0
    cases h1.symm.trans h0
  | start data hidle =>
    rw [startCheck_ignwr] at h0
    cases h1.symm.trans h0
  | ctrlBusy data hi hbusy => cases (writeCtrl_busy_ignwr data hbusy h1).symm.trans h0
  | ignoreBusy _ _ => cases h0
  | read _ _ | storeCtrl _ _ | storeConfig _ _ | storePalette _ _ _ | writeNothing _ => cases h1.symm.trans h0

/-- A turn that keeps IGNWR neither sets nor clears it: both clauses of the statement hold of it. -/
theorem ignwr_sticky_of_eq {s t : State} {P Q : Prop} (h : t.status.ignwr = s.status.ignwr) :
    (s.status.ignwr = false → t.status.ignwr = true → P) ∧ (s.status.ignwr = true → t.status.ignwr = false → Q) :=
  ⟨fun h0 h1 => absurd (h0.symm.trans (h.symm.trans h1)) Bool.false_ne_true,
    fun h1 h0 => absurd (h0.symm.trans (h.trans h1)) Bool.false_ne_true⟩

/-- Settles O49, by the turn: HOST's transactions as said above; UNPACKER, SRC and SINK keep IGNWR, and `rst` clears it. -/
theorem ignwrIsSticky : Obligations.IgnwrIsSticky := by
  intro s t hstep
  cases stepEffect_of_step hstep with
  | host w hturn h =>
    refine ⟨fun h0 h1 => ?rises, fun h1 h0 => ?falls⟩
    case rises =>
      obtain ⟨hbusy, hwrite⟩ := busEffect_ignwr_rises (s := afterTurn s) h h0 h1
      exact ⟨hbusy, w, hturn, busxWe_of_decodeBusx_ne_rd hwrite⟩
    case falls =>
      rcases busEffect_ignwr_falls (s := afterTurn s) h h1 h0 with ⟨_, hsrst⟩ | ⟨d, hack, hbit⟩
      · exact .inl (by rw [hturn, isSoftResetTurn_host hsrst])
      · exact .inr (.inr ⟨w, d, hturn, hack, hbit⟩)
  | unpacker _ h => exact ignwr_sticky_of_eq (unpackerEffect_ignwr (s := afterTurn s) h)
  | src b _ h => exact ignwr_sticky_of_eq (h ▸ rfl)
  | srcFlush _ h => exact ignwr_sticky_of_eq (h ▸ rfl)
  | sink ready _ h => exact ignwr_sticky_of_eq (h ▸ rfl)
  | rst hturn h =>
    subst h
    exact ⟨fun _ h1 => absurd h1 Bool.false_ne_true, fun _ _ => .inr (.inl hturn)⟩

/-! ### A rewind of SRC (R158, R195) -/

/-- SRC's turns of a FEED put its bytes behind those on offer, one a step. -/
theorem run_feed (bytes : List Byte) (s : State) (rest : List Turn) (h : s.env.sched = expand (.feed bytes) ++ rest) :
    core.run bytes.length s = .next { s with env.sched := rest, env.inQ := s.env.inQ ++ bytes } := by
  induction bytes generalizing s with
  | nil =>
    have hsched : s.env.sched = rest := h
    rw [← hsched, List.append_nil]
    rfl
  | cons b bytes ih =>
    have hsched : s.env.sched = .src b :: (expand (.feed bytes) ++ rest) := h
    rw [List.length_cons, run_next (step_src hsched), ih _ rfl, srcOffer_env, List.append_assoc]
    rfl

/-- Settles O59: the flush empties the offer, and the feed then fills it with the pixel data. -/
theorem rewindOffersThePixelDataAfresh : Obligations.RewindOffersThePixelDataAfresh := by
  intro buf h s rest hsched
  have hflush : step s = _ := step_srcFlush hsched
  rw [Nat.add_comm, run_next hflush, ← List.length_drop, run_feed _ _ rest rfl]
  rfl

end Sys2Proof.Proofs
end

section
/-! PROOFS. The statements of spec/60_exceptions.md: which states never stop (R144, R166, R182), when ERROR rises and what a
failed START leaves (R163, R165 to R169), the level of `irq` (R171), and the order of HOST's checks (R168, R190, R192). -/

namespace Sys2Proof.Proofs

open Sys2Proof.Machine Sys2Proof.Laws

/-! ### UNPACKER's turn under the invariant (R79, R111) -/

/-- IN_BYTE is selected only within a pixel that is not yet full (R78, R79). -/
theorem not_full_of_selects_inByte {s : State} {fmt : FmtCode} {nibph : Bool}
    (h : decodeStepsel (stepsel s) = .ok (.inByte fmt nibph)) : s.run.fsm = .pix ∧ full s = false := by
  rw [stepsel] at h
  cases hfsm : s.run.fsm with
  | idle =>
    rw [hfsm, stepsel_decode] at h
    cases h
  | pad =>
    rw [hfsm, stepsel_decode] at h
    cases h
  | pix =>
    refine ⟨rfl, Bool.eq_false_iff.mpr fun hfull => ?_⟩
    rw [hfsm, hfull] at h
    obtain ⟨hemit, _⟩ := isEmit_of_full_pixel h
    cases hemit

/-- The selected step fires or waits: in particular S.acc has room for the byte of an IN_BYTE (R47 item 2, log entry 9). -/
theorem exec_selected_answers {s : State} {i : Instr} (h : Inv s) (hi : decodeStepsel (stepsel s) = .ok i) :
    ∃ t, exec i s = .next t := by
  cases stepRow_of_isStepRow (isStepRow_of_decodeStepsel hi) with
  | idle u fmt nibph => exact ⟨s, rfl⟩
  | inByte fmt nibph =>
    obtain ⟨hfsm, hfull⟩ := not_full_of_selects_inByte hi
    have hroom : s.run.accN.val + 1 < 5 := Nat.lt_of_le_of_lt (accN_lt_need h hfsm hfull) (need _ _).isLt
    cases hin : s.env.inQ with
    | nil => exact ⟨s, exec_inByte_nil fmt nibph hin⟩
    | cons b rest => exact ⟨_, exec_inByte_cons fmt nibph hin hroom⟩
  | padSkip u fmt nibph =>
    cases hin : s.env.inQ with
    | nil => exact ⟨s, exec_padSkip_nil u fmt nibph hin⟩
    | cons b rest => exact ⟨_, exec_padSkip_cons u fmt nibph hin⟩
  | emit hemit =>
    cases hsink : s.env.sinkReady with
    | false => exact ⟨s, exec_emit_stalled hemit hsink⟩
    | true =>
      obtain ⟨p, hp⟩ := emitPixel_of_isEmit s hemit
      exact ⟨_, exec_emit hp hsink⟩

/-- Settles O5, by the turn: a bus transaction always answers, and the selector of UNPACKER decodes to a row that does. -/
theorem invariantStatesNeverStop : Obligations.InvariantStatesNeverStop := by
  intro s h
  rw [step_by_turn]
  cases turnOf s with
  | host w =>
    obtain ⟨t, ht, _⟩ := answersBus_decodeBusx (afterTurn s) w
    exact ⟨t, ht⟩
  | unpacker =>
    obtain ⟨i, hi⟩ := exists_selected h
    rw [hi]
    exact exec_selected_answers (s := afterTurn s) (inv_env h _) hi
  | src b => exact ⟨_, rfl⟩
  | srcFlush => exact ⟨_, rfl⟩
  | sink ready => exact ⟨_, rfl⟩
  | rst => exact ⟨_, rfl⟩

/-! ### A failed START (R165 to R169) -/

/-- An error leaves the block's registers, its run state and the streams as they were, so the check meets the same guard
when it is run again. -/
theorem startSelected_failed_again {fmt : FmtCode} {s : State} (h : (startSelected fmt s).status.error = true) :
    startSelected fmt (startSelected fmt s) = startSelected fmt s := by
  rcases startSelected_cases fmt s with ⟨rfl, hs⟩ | ⟨hf, hreq, hs⟩ | ⟨_, _, hs⟩ | ⟨_, _, _, _, hs⟩ <;> rw [hs] at h ⊢
  · exact startSelected_none _
  · exact startSelected_short _ hf hreq
  · cases h
  · cases h

/-- Settles O21: an FMTSEL row is the START check with one format, whichever the state. -/
theorem failedStartRepeats : Obligations.FailedStartRepeats := by
  intro i s t hi h herror
  obtain ⟨f, hexec⟩ := exec_fmtselRow hi
  cases (hexec s).symm.trans h
  rw [hexec, startSelected_failed_again herror]

/-! ### Which steps set ERROR (R163, R166, R169) -/

/-- The START check fails with one of two codes, and then leaves the run state as it is. -/
theorem startSelected_error {fmt : FmtCode} {s : State} (h : (startSelected fmt s).status.error = true) :
    (startSelected fmt s).run = s.run ∧
    ((startSelected fmt s).status.errcode = 1 ∨ (startSelected fmt s).status.errcode = 2) := by
  rcases startSelected_cases fmt s with ⟨_, hs⟩ | ⟨_, _, hs⟩ | ⟨_, _, hs⟩ | ⟨_, _, _, _, hs⟩ <;> rw [hs] at h ⊢
  · exact ⟨rfl, .inl rfl⟩
  · exact ⟨rfl, .inr rfl⟩
  · cases h
  · cases h

theorem writeStatus_error {s : State} (data : Word) (h : s.status.error = false) :
    (writeStatus data s).status.error = false := by
  rw [writeStatus, ackIgnwr_eq, ackError_eq, ackDone_eq, h]
  exact ite_self _

/-- Of STATUS no step of UNPACKER changes more than DONE, which it never clears. -/
theorem unpackerEffect_status {s t : State} (h : UnpackerEffect s t) :
    t.status = s.status ∨ t.status = { s.status with done := true } := by
  cases h with
  | idle _ | waitByte _ _ | waitSink _ _ _ | takeByte _ _ _ _ => exact .inl rfl
  | @emit i p _ _ _ _ _ =>
    obtain ⟨_, _, _, _, hstatus⟩ := advance_frame (outPush (beatOf p s) { s with run := emitNibble s.run i })
    exact hstatus
  | @skipByte b rest _ _ =>
    obtain ⟨_, _, _, _, hstatus⟩ := skipPad_frame { s with env.inQ := rest }
    exact hstatus

theorem unpackerEffect_error {s t : State} (h : UnpackerEffect s t) : t.status.error = s.status.error := by
  rcases unpackerEffect_status h with hstatus | hstatus <;> rw [hstatus]

/-- Of the bus transactions only a failed START, in an idle block, sets ERROR. -/
theorem busEffect_error_rises {s t : State} {i : Instr} (h : BusEffect s i t) (h0 : s.status.error = false)
    (h1 : t.status.error = true) :
    (∃ data, i = .wrCtrlStart data) ∧ s.run.fsm = .idle ∧ t.run = s.run ∧ t.env = s.env ∧
    (t.status.errcode = 1 ∨ t.status.errcode = 2) := by
  cases h with
  | start data hidle =>
    obtain ⟨hrun, hcode⟩ := startSelected_error h1
    obtain ⟨_, _, _, henv, _⟩ :=
      startSelected_frame (fmtOf s.cfg.compression s.cfg.bpp) { s with ctrl := ctrlOfData data }
    exact ⟨⟨data, rfl⟩, hidle, hrun, henv, hcode⟩
  | softReset data => cases h1
  | ctrlBusy data hi hbusy =>
    rw [writeCtrl_busy data s hbusy] at h1
    cases h0.symm.trans h1
  | ackStatus data => cases (writeStatus_error data h0).symm.trans h1
  | _ => cases h0.symm.trans h1

/-- Settles O51, by the turn: HOST's and UNPACKER's as said above; SRC, SINK and `rst` set no flag. -/
theorem errorRisesOnlyInStart : Obligations.ErrorRisesOnlyInStart := by
  intro s t hstep h0 h1
  cases stepEffect_of_step hstep with
  | host w hturn h =>
    obtain ⟨⟨data, hstart⟩, hrest⟩ := busEffect_error_rises (s := afterTurn s) h h0 h1
    exact ⟨by rw [hturn, isStartTurn_host hstart], hrest⟩
  | unpacker _ h => cases h0.symm.trans ((unpackerEffect_error h).symm.trans h1)
  | src b _ h => cases h0.symm.trans (h ▸ h1)
  | srcFlush _ h => cases h0.symm.trans (h ▸ h1)
  | sink ready _ h => cases h0.symm.trans (h ▸ h1)
  | rst _ h =>
    subst h
    cases h1

/-! ### The level of `irq` (R171, R173) -/

theorem irq_iff (s : State) :
    irq s = true ↔ s.ctrl.irqEn = true ∧ (s.status.done = true ∨ s.status.error = true) := by
  rw [irq, Bool.and_eq_true, Bool.or_eq_true]

/-- With nothing pending `irq` is low, whatever IRQ_EN. -/
theorem irq_of_not_pending {s : State} (hdone : s.status.done = false) (herror : s.status.error = false) :
    irq s = false := by
  rw [irq, hdone, herror, Bool.or_false, Bool.and_false]

theorem irq_writeStatus_ack {data : Word} (s : State) (hdone : data.getLsbD 1 = true) (herror : data.getLsbD 2 = true) :
    irq (writeStatus data s) = false := by
  rw [writeStatus, ackIgnwr_eq, ackError_eq, ackDone_eq]
  exact irq_of_not_pending (if_pos hdone) (if_pos herror)

theorem irq_softReset (data : Word) (s : State) : irq (softReset data s) = false := irq_of_not_pending rfl rfl

/-- A CTRL write that is no START stores IRQ_EN, idle or busy, and keeps what is pending (R147). -/
theorem irq_writeCtrl {data : Word} (s : State) (h : data.getLsbD 0 = false) :
    irq (writeCtrl data s) = (data.getLsbD 8 && (s.status.done || s.status.error)) := by
  by_cases hidle : s.run.fsm = .idle
  · rw [writeCtrl_idle data s hidle, if_neg (Bool.eq_false_iff.mp h)]
    rfl
  · rw [writeCtrl_busy data s hidle]
    rfl

/-- Settles O43: the level by its definition, and then what each of the three writes makes of it. -/
theorem irqFollowsPendingAndEnable : Obligations.IrqFollowsPendingAndEnable := by
  refine fun s => ⟨irq_iff s, fun d t hdone herror h => ?ack, fun d t h => ?srst, fun d t hwf h => ?ctrl⟩
  case ack =>
    cases (exec_wrStatus d s).symm.trans h
    exact irq_writeStatus_ack s hdone herror
  case srst =>
    cases h
    exact irq_softReset d s
  case ctrl =>
    cases (exec_wrCtrl d s).symm.trans h
    exact irq_writeCtrl s (no_start_bit_of_wf hwf)

/-! ### HOST's checks (R168, R190, R192) -/

/-- The buffer passes check 1 of R168: it holds a header and begins with "BM". -/
def IsSigned (buf : List Byte) : Prop := 54 ≤ buf.length ∧ bufByte buf 0 = 0x42 ∧ bufByte buf 1 = 0x4D

theorem not_isSigned_iff {buf : List Byte} :
    ¬IsSigned buf ↔ buf.length < 54 ∨ bufByte buf 0 ≠ 0x42 ∨ bufByte buf 1 ≠ 0x4D := by
  rw [IsSigned, not_and_or, not_and_or, Nat.not_le]

/-- The palette that R192 step 2 reads runs past the buffer. -/
def PalettePastEnd (buf : List Byte) (h : Header) : Prop :=
  isIndexed h = true ∧ buf.length < paletteStart h + 4 * paletteCount h

theorem isIndexed_iff {h : Header} : isIndexed h = true ↔ h.compression = 0 ∧ (h.bpp = 4 ∨ h.bpp = 8) := by
  rw [isIndexed, headerFmt, Bool.or_eq_true, beq_iff_eq, beq_iff_eq]
  constructor
  · intro hfmt
    unfold fmtOf at hfmt
    split_ifs at hfmt with hidx4 hidx8
    · exact ⟨hidx4.1, .inl hidx4.2⟩
    · exact ⟨hidx8.1, .inr hidx8.2⟩
    all_goals exact absurd hfmt (by decide)
  · rintro ⟨hc, hb | hb⟩ <;> rw [hc, hb] <;> decide

theorem headerSupported_iff {h : Header} :
    headerSupported h = true ↔ h.planes = 1 ∧ h.bpp ∈ [4, 8, 24, 32] ∧ h.compression ∈ [0, 3] := by
  simp [headerSupported, and_assoc, or_assoc]

theorem headerSupported_eq_false_iff {h : Header} :
    headerSupported h = false ↔ h.planes ≠ 1 ∨ h.bpp ∉ [4, 8, 24, 32] ∨ h.compression ∉ [0, 3] := by
  rw [Bool.eq_false_iff, ne_eq, headerSupported_iff, not_and_or, not_and_or]

/-- The pairs of the format table are made of supported values (R75, R168). -/
theorem mem_of_isFormatPair {c : Word} {b : BitVec 16} (h : isFormatPair c b = true) :
    b ∈ [4, 8, 24, 32] ∧ c ∈ [0, 3] := by
  rcases isFormatPair_iff.mp h with ⟨rfl, rfl | rfl | rfl | rfl⟩ | ⟨rfl, rfl⟩ <;> decide

/-- What check 3 refuses of a one-plane image START would refuse too (R100, R164). -/
theorem fmtOf_of_not_supported {h : Header} (hsupported : headerSupported h = false) (hplanes : h.planes = 1) :
    fmtOf h.compression h.bpp = Fmt.none := by
  refine fmtOf_of_not_formatPair (Bool.eq_false_iff.mpr fun hpair => ?_)
  have hknown : headerSupported h = true := headerSupported_iff.mpr ⟨hplanes, mem_of_isFormatPair hpair⟩
  cases hsupported.symm.trans hknown

/-- The outcomes of HOST's checks, each with the check that gives it and the checks passed before it. -/
theorem hostChecks_cases (buf : List Byte) (n : Nat) :
    (¬IsSigned buf ∧ hostChecks buf n = .error .invalidImage) ∨
    (IsSigned buf ∧ n < outputSize (parseHeader buf) ∧ hostChecks buf n = .error .notEnoughSpace) ∨
    (IsSigned buf ∧ outputSize (parseHeader buf) ≤ n ∧ headerSupported (parseHeader buf) = false ∧
      hostChecks buf n = .error .notSupported) ∨
    (IsSigned buf ∧ outputSize (parseHeader buf) ≤ n ∧ headerSupported (parseHeader buf) = true ∧
      PalettePastEnd buf (parseHeader buf) ∧ hostChecks buf n = .error .invalidImage) ∨
    (IsSigned buf ∧ outputSize (parseHeader buf) ≤ n ∧ headerSupported (parseHeader buf) = true ∧
      ¬PalettePastEnd buf (parseHeader buf) ∧ hostChecks buf n = .ok (parseHeader buf)) := by
  have hsigned := (not_isSigned_iff (buf := buf)).not_right
  simp only [hostChecks]
  split_ifs with hbad hspace hsupported hpast
  · exact .inl ⟨not_isSigned_iff.mpr hbad, rfl⟩
  · exact .inr (.inl ⟨hsigned.mpr hbad, hspace, rfl⟩)
  · exact .inr (.inr (.inl ⟨hsigned.mpr hbad, Nat.le_of_not_lt hspace, hsupported, rfl⟩))
  · exact .inr (.inr (.inr (.inl
      ⟨hsigned.mpr hbad, Nat.le_of_not_lt hspace, Bool.eq_true_of_not_eq_false hsupported, hpast, rfl⟩)))
  · exact .inr (.inr (.inr (.inr
      ⟨hsigned.mpr hbad, Nat.le_of_not_lt hspace, Bool.eq_true_of_not_eq_false hsupported, hpast, rfl⟩)))

section
variable {buf : List Byte} {n : Nat}

theorem hostChecks_eq_invalidImage_iff : hostChecks buf n = .error .invalidImage ↔
    ¬IsSigned buf ∨ (outputSize (parseHeader buf) ≤ n ∧ headerSupported (parseHeader buf) = true ∧
      PalettePastEnd buf (parseHeader buf)) := by
  rcases hostChecks_cases buf n with ⟨hbad, h⟩ | ⟨hsigned, hspace, h⟩ | ⟨hsigned, _, hno, h⟩ | ⟨_, hfits, hyes, hpast, h⟩ |
    ⟨hsigned, _, _, hinside, h⟩ <;> rw [h]
  · simp [hbad]
  · simp [hsigned, hspace]
  · simp [hsigned, hno]
  · simp [hfits, hyes, hpast]
  · simp [hsigned, hinside]

theorem hostChecks_eq_notEnoughSpace_iff : hostChecks buf n = .error .notEnoughSpace ↔
    IsSigned buf ∧ n < outputSize (parseHeader buf) := by
  rcases hostChecks_cases buf n with ⟨hbad, h⟩ | ⟨hsigned, hspace, h⟩ | ⟨_, hfits, _, h⟩ | ⟨_, hfits, _, _, h⟩ |
    ⟨_, hfits, _, _, h⟩ <;> rw [h]
  · simp [hbad]
  · simp [hsigned, hspace]
  · simp [hfits]
  · simp [hfits]
  · simp [hfits]

theorem hostChecks_eq_notSupported_iff : hostChecks buf n = .error .notSupported ↔
    IsSigned buf ∧ outputSize (parseHeader buf) ≤ n ∧ headerSupported (parseHeader buf) = false := by
  rcases hostChecks_cases buf n with ⟨hbad, h⟩ | ⟨_, hspace, h⟩ | ⟨hsigned, hfits, hno, h⟩ | ⟨_, _, hyes, _, h⟩ |
    ⟨_, _, hyes, _, h⟩ <;> rw [h]
  · simp [hbad]
  · simp [hspace]
  · simp [hsigned, hfits, hno]
  · simp [hyes]
  · simp [hyes]

theorem header_of_hostChecks_ok {h : Header} (hok : hostChecks buf n = .ok h) : h = parseHeader buf := by
  rcases hostChecks_cases buf n with ⟨_, h'⟩ | ⟨_, _, h'⟩ | ⟨_, _, _, h'⟩ | ⟨_, _, _, _, h'⟩ | ⟨_, _, _, _, h'⟩ <;>
    cases h'.symm.trans hok
  rfl

end

/-- The palette check, once the image is supported: an indexed image is supported if it has one plane (R168, R192). -/
theorem supported_and_palettePastEnd_iff {buf : List Byte} {h : Header} :
    headerSupported h = true ∧ PalettePastEnd buf h ↔
      h.planes = 1 ∧ h.compression = 0 ∧ (h.bpp = 4 ∨ h.bpp = 8) ∧
        buf.length < 14 + h.headerLength.toNat + 4 * paletteCount h := by
  rw [headerSupported_iff, PalettePastEnd, isIndexed_iff]
  constructor
  · rintro ⟨⟨hplanes, _, _⟩, ⟨hc, hb⟩, hlength⟩
    exact ⟨hplanes, hc, hb, hlength⟩
  · rintro ⟨hplanes, hc, hb, hlength⟩
    have hknown : h.bpp ∈ [4, 8, 24, 32] ∧ h.compression ∈ [0, 3] := by
      rw [hc]
      rcases hb with hb | hb <;> rw [hb] <;> decide
    exact ⟨⟨hplanes, hknown⟩, ⟨hc, hb⟩, hlength⟩

/-- Settles O58: the outcome is that of the first check that fails, written in the terms of the header's fields. -/
theorem hostChecksFollowTheOrder : Obligations.HostChecksFollowTheOrder := by
  rintro buf n h rfl
  refine ⟨?invalid, ?space, ?unsupported, fun hno hplanes => ?noFormat, fun h' hok => header_of_hostChecks_ok hok⟩
  case invalid => rw [hostChecks_eq_invalidImage_iff, not_isSigned_iff, supported_and_palettePastEnd_iff, outputSize]
  case space => rw [hostChecks_eq_notEnoughSpace_iff, IsSigned, and_assoc, and_assoc, outputSize]
  case unsupported =>
    rw [hostChecks_eq_notSupported_iff, headerSupported_eq_false_iff, IsSigned, and_assoc, and_assoc, outputSize]
  case noFormat =>
    obtain ⟨_, _, hsupported⟩ := hostChecks_eq_notSupported_iff.mp hno
    exact fmtOf_of_not_supported hsupported hplanes

end Sys2Proof.Proofs
end

section
/-! PROOFS. The statements of spec/70_reset_and_hazards.md: `rst` (R183, R185), the turns in which UNPACKER waits and those in
which it works (R194, R199), and HOST's palette load (R192). -/

namespace Sys2Proof.Proofs

open Sys2Proof.Machine Sys2Proof.Laws

/-! ### `rst` (R183, R185) -/

/-- Settles O2: the palette is one that nothing has written since a draw of its own. -/
theorem rstTurnResetsTheBlock : Obligations.RstTurnResetsTheBlock := by
  intro s rest hsched
  have hdraw : s.pal.draw + 1 ≠ s.pal.draw := Nat.succ_ne_self _
  exact ⟨_, step_rst hsched, rfl, rfl, rfl, rfl, hdraw, read_unwritten _, rfl⟩

/-! ### Where UNPACKER waits (R194) -/

theorem stalled_idle {s : State} (hfsm : s.run.fsm = .idle) : stalled s = false := by
  obtain ⟨hin, hout⟩ := signals_idle hfsm
  rw [stalled, hin, hout]
  rfl

theorem stalled_pad {s : State} (hfsm : s.run.fsm = .pad) : stalled s = s.env.inQ.isEmpty := by
  obtain ⟨hin, hout⟩ := signals_pad hfsm
  rw [stalled, hin, hout, Bool.true_and, Bool.false_and, Bool.or_false]

/-- Within a pixel UNPACKER waits for SRC while the pixel is short of bytes, and for SINK once it is full. -/
theorem stalled_pix {s : State} (h : Inv s) (hfsm : s.run.fsm = .pix) :
    stalled s = if full s then !s.env.sinkReady else s.env.inQ.isEmpty := by
  obtain ⟨hin, hout⟩ := signals_pix h hfsm
  rw [stalled, hin, hout]
  cases full s with
  | true => rfl
  | false => exact Bool.or_false _

/-- The effects in which a byte is taken or a beat handed over are not those of a waiting UNPACKER. -/
theorem unpackerEffect_stalled {s t : State} (h : Inv s) (hstall : stalled s = true) (ht : UnpackerEffect s t) : t = s := by
  cases ht with
  | idle | waitByte | waitSink => rfl
  | takeByte hfsm hfull hin hroom =>
    rw [stalled_pix h hfsm, hfull, hin] at hstall
    cases hstall
  | emit hfsm hfull hsink hi hp =>
    rw [stalled_pix h hfsm, hfull, hsink] at hstall
    cases hstall
  | skipByte hfsm hin =>
    rw [stalled_pad hfsm, hin] at hstall
    cases hstall

/-- Settles O27: the step answers a next state, and the effect that it is the answer of is to wait. -/
theorem stalledTurnChangesNothing : Obligations.StalledTurnChangesNothing := by
  intro s h hturn hstall
  obtain ⟨t, hstep⟩ := invariantStatesNeverStop s h
  have hsame : t = afterTurn s :=
    unpackerEffect_stalled (inv_env h _) hstall (unpackerEffect_of_step hturn hstep)
  rw [hstep, hsame]

/-! ### What a run has still to do (R199) -/

theorem remaining_idle {t : State} (hfsm : t.run.fsm = .idle) : remaining t = 0 := by
  rw [remaining, hfsm]

theorem remaining_pix {t : State} (hfsm : t.run.fsm = .pix) : remaining t =
    (imageW t - t.run.col.toNat) +
    (rowBytes t.status.fmt (imageW t) - (rowBytes t.status.fmt t.run.col.toNat + t.run.accN.val)) +
    padBytes t.status.fmt (imageW t) +
    (imageH t - (t.run.row.toNat + 1)) * (stride t.status.fmt (imageW t) + imageW t) := by
  rw [remaining, hfsm]

theorem remaining_pad {t : State} (hfsm : t.run.fsm = .pad) : remaining t = t.run.padLeft.toNat +
    (imageH t - (t.run.row.toNat + 1)) * (stride t.status.fmt (imageW t) + imageW t) := by
  rw [remaining, hfsm]

/-- h rows of n are the rows before row r, row r and the later ones. -/
theorem rows_split {r h : Nat} (n : Nat) (hr : r < h) : h * n = r * n + n + (h - (r + 1)) * n := by
  rw [← Nat.succ_mul, ← Nat.add_mul, Nat.add_sub_cancel' hr]

/-- The bytes taken of the row in progress are bytes of its pixels. -/
theorem rowBytes_add_accN_le {t : State} (h : Inv t) (hfsm : t.run.fsm = .pix) :
    rowBytes t.status.fmt t.run.col.toNat + t.run.accN.val ≤ rowBytes t.status.fmt (imageW t) := by
  obtain ⟨hacc, hcol, _⟩ := h.pix hfsm
  calc rowBytes t.status.fmt t.run.col.toNat + t.run.accN.val
      ≤ rowBytes t.status.fmt t.run.col.toNat + (need t.status.fmt t.run.nibph).val :=
        Nat.add_le_add_left (Fin.le_def.mp hacc) _
    _ = rowBytes t.status.fmt (t.run.col.toNat + 1) :=
        (rowBytes_succ (runningStatus_of_inv h (by simp [hfsm])) (h.parity hfsm)).symm
    _ ≤ rowBytes t.status.fmt (imageW t) := rowBytes_mono _ hcol

/-- The steps still to take and those taken, one for each byte and each beat, are the req + W·H steps of the run. -/
theorem remaining_add_progress {t : State} (h : Inv t)
    (hended : t.run.fsm = .idle → t.run.row.toNat = imageH t ∧ t.run.col = 0) :
    remaining t + (taken t + emitted t) = requiredNow t + imageW t * imageH t := by
  rw [requiredNow_eq_mul, Nat.mul_comm (imageW t)]
  cases hfsm : t.run.fsm with
  | idle =>
    obtain ⟨hrow, hcol⟩ := hended hfsm
    rw [remaining_idle hfsm, taken_idle hfsm, emitted_rowStart hcol, hrow, Nat.zero_add]
  | pix =>
    obtain ⟨_, hcol, hrow⟩ := h.pix hfsm
    have hbytes := rowBytes_add_accN_le h hfsm
    have hstride : stride t.status.fmt (imageW t) = rowBytes t.status.fmt (imageW t) + padBytes t.status.fmt (imageW t) := rfl
    rw [remaining_pix hfsm, taken_pix hfsm, emitted, rows_split (stride t.status.fmt (imageW t)) hrow,
      rows_split (imageW t) hrow, Nat.mul_add]
    omega
  | pad =>
    obtain ⟨_, hcol, hrow⟩ := h.pad hfsm
    obtain ⟨hw, _⟩ := h.pad_row hfsm
    have hstride := four_le_stride (runningStatus_of_inv h (by simp [hfsm])) hw
    rw [remaining_pad hfsm, taken_pad hfsm, emitted, rows_split (stride t.status.fmt (imageW t)) hrow,
      rows_split (imageW t) hrow, Nat.mul_add, hcol]
    omega

/-- A step of a run in progress that does not wait takes one byte or hands over one beat (R199), and ends the run only with
ROW = H and DONE (R133). -/
theorem unpackerEffect_progress {s t : State} (h : Inv s) (hbusy : s.run.fsm ≠ .idle) (hstall : stalled s = false)
    (ht : UnpackerEffect s t) : RunOutcome s.status t ∧ taken t + emitted t = taken s + emitted s + 1 := by
  have hdone := (runningStatus_of_inv h hbusy).done
  cases ht with
  | idle hfsm => exact absurd hfsm hbusy
  | waitByte hfsm hin =>
    rcases hfsm with ⟨hpix, hfull⟩ | hpad
    · rw [stalled_pix h hpix, hfull, hin] at hstall
      cases hstall
    · rw [stalled_pad hpad, hin] at hstall
      cases hstall
  | waitSink hfsm hfull hsink =>
    rw [stalled_pix h hfsm, hfull, hsink] at hstall
    cases hstall
  | @takeByte b rest hfsm hfull hin hroom =>
    refine ⟨runOutcome_busy hdone hbusy rfl, ?_⟩
    rw [taken_storeAcc (u := { s with env.inQ := rest }) b hfsm rfl]
    exact Nat.add_right_comm _ _ _
  | @emit i p hfsm hfull hsink hi hp =>
    refine ⟨runOutcome_advance (u := outPush (beatOf p s) { s with run := emitNibble s.run i }) hdone
      ((emitNibble_fsm _ _).trans hfsm), ?_⟩
    rw [taken_emit h hfsm hfull, emitted_emit h hfsm]
    rfl
  | @skipByte b rest hfsm hin =>
    have hu : Inv { s with env.inQ := rest } := inv_env h _
    refine ⟨runOutcome_skipPad (u := { s with env.inQ := rest }) hdone hfsm, ?_⟩
    rw [taken_skipPad hu hfsm, emitted_skipPad hu hfsm]
    exact Nat.add_right_comm _ _ _

/-- Settles O53: the total of the run stays, so one more step taken is one fewer to take; a busy block always has one left. -/
theorem eachUnpackerTurnDoesOneStepOfWork : Obligations.EachUnpackerTurnDoesOneStepOfWork := by
  intro s h hbusy hturn hstall
  obtain ⟨t, hstep⟩ := invariantStatesNeverStop s h
  have heffect := unpackerEffect_of_step hturn hstep
  obtain ⟨houtcome, hprogress⟩ := unpackerEffect_progress (s := afterTurn s) (inv_env h _) hbusy hstall heffect
  obtain ⟨_, hcfg, _, hfmt⟩ := unpackerEffect_frame heffect
  have ht := everyStepKeepsTheInvariant s t h hstep
  have htotal_s := remaining_add_progress (t := afterTurn s) (inv_env h _) fun hidle => absurd hidle hbusy
  have htotal_t := remaining_add_progress ht houtcome.ended
  rw [requiredNow, hfmt, imageW_of_cfg hcfg, imageH_of_cfg hcfg] at htotal_t
  refine ⟨t, hstep, ?one_fewer, ⟨fun hnone => ?ended, remaining_idle⟩, fun hidle => ?done⟩
  case one_fewer =>
    change remaining (afterTurn s) = _
    rw [requiredNow] at htotal_s
    omega
  case ended =>
    by_contra hbusy_t
    have hlt := progress_lt_of_busy ht hbusy_t
    rw [← remaining_add_progress ht houtcome.ended, hnone] at hlt
    omega
  case done => rw [houtcome.status, hidle]; rfl

/-! ### HOST's palette load (R192) -/

/-- The palette once the entries of a list of indices are written in its order, entry i with the word `word i`. -/
def writeEntries (word : Nat → Word) (p : Palette) (indices : List Nat) : Palette :=
  indices.foldl (fun q i => q.write (BitVec.ofNat 8 i) (word i)) p

theorem writeEntries_draw (word : Nat → Word) (indices : List Nat) (p : Palette) :
    (writeEntries word p indices).draw = p.draw := by
  induction indices generalizing p with
  | nil => rfl
  | cons i indices ih => exact (ih _).trans (palette_write_draw p _ _)

theorem writeEntries_range_succ (word : Nat → Word) (p : Palette) (n : Nat) : writeEntries word p (List.range (n + 1)) =
    (writeEntries word p (List.range n)).write (BitVec.ofNat 8 n) (word n) := by
  rw [writeEntries, List.range_succ, List.foldl_append]
  rfl

/-- An index below 256 is an entry of its own. -/
theorem eq_ofNat_iff {e : Byte} {n : Nat} (hn : n < 256) : e = BitVec.ofNat 8 n ↔ e.toNat = n := by
  rw [← BitVec.toNat_inj, BitVec.toNat_ofNat, Nat.mod_eq_of_lt hn]

/-- The first n entries written in rising order hold their words, and every other entry is as before. -/
theorem read_writeEntries_range (word : Nat → Word) (p : Palette) (e : Byte) : ∀ n, n ≤ 256 →
    (writeEntries word p (List.range n)).read e = if e.toNat < n then word e.toNat else p.read e
  | 0, _ => (if_neg (Nat.not_lt_zero _)).symm
  | n + 1, hn => by
    rw [writeEntries_range_succ, read_write, read_writeEntries_range word p e n (by omega)]
    by_cases he : e.toNat = n
    · rw [if_pos ((eq_ofNat_iff hn).mpr he), if_pos (by omega), he]
    · rw [if_neg fun h => he ((eq_ofNat_iff hn).mp h)]
      by_cases hlt : e.toNat < n
      · rw [if_pos hlt, if_pos (by omega)]
      · rw [if_neg hlt, if_neg (by omega)]

theorem step_pal {s : State} {e : Byte} {v : Word} {rest : List Turn} (hidle : s.run.fsm = .idle)
    (hsched : s.env.sched = expand (.pal e v) ++ rest) :
    step s = .next { s with pal := s.pal.write e v, env.sched := rest } := by
  rw [step_host hsched, decodeBusx_write, decodeWrite_paletteAddr]
  exact exec_wrPal_idle e v hidle

/-- In an idle block a list of palette commands writes its entries one a step. -/
theorem run_palette (word : Nat → Word) (indices : List Nat) (s : State) (rest : List Turn) (hidle : s.run.fsm = .idle)
    (hsched : s.env.sched = expandAll (indices.map fun i => .pal (BitVec.ofNat 8 i) (word i)) ++ rest) :
    core.run indices.length s = .next { s with pal := writeEntries word s.pal indices, env.sched := rest } := by
  induction indices generalizing s with
  | nil =>
    have hrest : s.env.sched = rest := hsched
    rw [← hrest]
    rfl
  | cons i indices ih =>
    have hcons : s.env.sched = expand (.pal (BitVec.ofNat 8 i) (word i)) ++
        (expandAll (indices.map fun i => .pal (BitVec.ofNat 8 i) (word i)) ++ rest) := hsched
    exact (run_next (step_pal hidle hcons)).trans (ih _ hidle rfl)

/-- Settles O57: the commands are those of the first 2^BPP entries, each written once with the word R192 gives it. -/
theorem paletteLoadFillsEveryEntry : Obligations.PaletteLoadFillsEveryEntry := by
  intro buf h s rest hcompression hbpp hidle hsched
  have hsize : 2 ^ h.bpp.toNat ≤ 256 := by rcases hbpp with hb | hb <;> rw [hb] <;> decide
  rw [paletteCmds, if_pos (isIndexed_iff.mpr ⟨hcompression, hbpp⟩)] at hsched
  have hrun := run_palette (paletteWord buf h) (List.range (2 ^ h.bpp.toNat)) s rest hidle hsched
  rw [List.length_range] at hrun
  refine ⟨_, hrun, fun i hi => ?loaded, fun e he => ?kept, writeEntries_draw _ _ _, rfl⟩
  case loaded =>
    have hindex : (BitVec.ofNat 8 i).toNat = i := (eq_ofNat_iff (by omega)).mp rfl
    rw [read_writeEntries_range _ _ _ _ hsize, hindex, if_pos hi]
    rfl
  case kept => rw [read_writeEntries_range _ _ _ _ hsize, if_neg (by omega)]

end Sys2Proof.Proofs
end
